-- ==== Sys2Proof/Word.lean ====
section
/-! DEFINITION. The words of the block (00_scope.md rules R6, R7): bytes of a telegram, 16-bit checksums and
registers, 32-bit command words and read-port values. All are unsigned. -/

namespace Sys2Proof

/-- One byte of a telegram or of an operand. -/
abbrev Byte := BitVec 8

/-- A 16-bit checksum or quantizer register (rule R6). -/
abbrev Half := BitVec 16

/-- A command word, or a value of the read port (rules R6, R41). -/
abbrev Word := BitVec 32

/-- An address of the read port (rule R6). -/
abbrev Addr := BitVec 8

end Sys2Proof
end

