-- ==== Sys2Proof/Syntax.lean ====
section
/-! DEFINITION. The commands of the block: one constructor per row of the opcode map (30_encoding.md rule R63).
Each operand has the width of its field (rule R62), so an operand that does not fit cannot be written. -/

namespace Sys2Proof

/-- The fifteen commands (rule R63); rule R133: "The command set of rule R63 is the whole command set." -/
inductive Instr where
  /-- CS_CLR, rule R87. -/
  | csClr
  /-- CS_ADD b, rule R88. -/
  | csAdd (b : Byte)
  /-- CS_CHK hi, lo, rule R89. -/
  | csChk (hi lo : Byte)
  /-- ENC_HDR tt, bc, dir, node, obj, rule R71. -/
  | encHdr (tt : BitVec 2) (bc dir : BitVec 1) (node obj : Byte)
  /-- ENC_PUSH b, rule R72. -/
  | encPush (b : Byte)
  /-- ENC_END, rule R73. -/
  | encEnd
  /-- DEC_CLR, rule R76. -/
  | decClr
  /-- DEC_PUSH b, rule R77. -/
  | decPush (b : Byte)
  /-- DEC_END, rule R79. -/
  | decEnd
  /-- Q_LDV imm, rule R93. -/
  | qLdv (imm : BitVec 24)
  /-- Q_LDN imm, rule R94. -/
  | qLdn (imm : BitVec 24)
  /-- Q_TOREG, rule R95. -/
  | qToreg
  /-- Q_FROM16 hi, lo, rule R97. -/
  | qFrom16 (hi lo : Byte)
  /-- Q_FROM8 hi, rule R98. -/
  | qFrom8 (hi : Byte)
  /-- ST_CLR, rule R103. -/
  | stClr
deriving DecidableEq, Repr

end Sys2Proof
end

