-- ==== Sys2Proof/WellFormed.lean ====
section
/-! DEFINITION. When a written command fits its encoding (30_encoding.md rules R62, R67). A written command has
operands of any size (`AsmLine`); the check of rule R67 says that each fits its field. A term of `Instr` has operands
of the field's own width, so it is well formed by its type; `Instr.wellFormed` says so through its written form. -/

namespace Sys2Proof

/-- A command as the assembler reads it, its operands not yet checked (rule R67, the table's forms). -/
inductive AsmLine where
  | csClr
  | csAdd (b : Nat)
  | csChk (hi lo : Nat)
  | encHdr (tt bc dir node obj : Nat)
  | encPush (b : Nat)
  | encEnd
  | decClr
  | decPush (b : Nat)
  | decEnd
  | qLdv (imm : Nat)
  | qLdn (imm : Nat)
  | qToreg
  | qFrom16 (hi lo : Nat)
  | qFrom8 (hi : Nat)
  | stClr
deriving DecidableEq, Repr

/-- `v` fits a field of `bits` bits. -/
def fits (bits v : Nat) : Bool := decide (v < 2 ^ bits)

/-- Rule R67: "An assembler refuses an operand that does not fit its field (b, hi, lo, node, obj above 255; tt above 3;
bc, dir above 1; imm above 16777215)". -/
def AsmLine.wellFormed : AsmLine → Bool
  | .csClr => true
  | .csAdd b => fits 8 b
  | .csChk hi lo => fits 8 hi && fits 8 lo
  | .encHdr tt bc dir node obj => fits 2 tt && fits 1 bc && fits 1 dir && fits 8 node && fits 8 obj
  | .encPush b => fits 8 b
  | .encEnd => true
  | .decClr => true
  | .decPush b => fits 8 b
  | .decEnd => true
  | .qLdv imm => fits 24 imm
  | .qLdn imm => fits 24 imm
  | .qToreg => true
  | .qFrom16 hi lo => fits 8 hi && fits 8 lo
  | .qFrom8 hi => fits 8 hi
  | .stClr => true

/-- The written form of a command. -/
def Instr.toAsm : Instr → AsmLine
  | .csClr => .csClr
  | .csAdd b => .csAdd b.toNat
  | .csChk hi lo => .csChk hi.toNat lo.toNat
  | .encHdr tt bc dir node obj => .encHdr tt.toNat bc.toNat dir.toNat node.toNat obj.toNat
  | .encPush b => .encPush b.toNat
  | .encEnd => .encEnd
  | .decClr => .decClr
  | .decPush b => .decPush b.toNat
  | .decEnd => .decEnd
  | .qLdv imm => .qLdv imm.toNat
  | .qLdn imm => .qLdn imm.toNat
  | .qToreg => .qToreg
  | .qFrom16 hi lo => .qFrom16 hi.toNat lo.toNat
  | .qFrom8 hi => .qFrom8 hi.toNat
  | .stClr => .stClr

/-- A command is well formed when its written form passes the assembler's check; every `Instr` is (rule R62: "Because
each field has a fixed width, a transmission_type above 3 or a broadcast or direction above 1 cannot be written"). -/
def Instr.wellFormed (i : Instr) : Bool := i.toAsm.wellFormed

end Sys2Proof
end

