-- ==== Sys2Proof/Decode.lean ====
section
/-! DEFINITION. Decoding a command word (30_encoding.md rules R55 to R66), the encoder beside it, and the opcode map of
rule R63 as data. The decoder is total: every word is one command or is rejected by name. -/

namespace Sys2Proof

/-- Why a word is illegal (rule R64: "its opcode is not in the table, or ... a reserved bit of that format is 1"). -/
inductive IllegalWord where
  /-- The opcode is one of the 241 reserved ones (rule R65). -/
  | reservedOpcode
  /-- The opcode is in the map and a reserved bit of its format is 1 (rules R57 to R60, R65). -/
  | reservedBits
deriving DecidableEq, Repr

/-! ### Fields of a word -/

/-- `OP`, bits [31:24] (rule R55). -/
def opcodeOf (w : Word) : BitVec 8 := w.extractLsb' 24 8

/-- `w[7:0]`: `b`, `lo` or `obj` (rule R62). -/
def lowByte (w : Word) : Byte := w.extractLsb' 0 8

/-- `w[15:8]`: `hi` or `node` (rule R62). -/
def secondByte (w : Word) : Byte := w.extractLsb' 8 8

/-! ### The five formats -/

/-- Format N: [23:0] reserved (rule R57). -/
def decodeN (i : Instr) (w : Word) : Except IllegalWord Instr :=
  if w.extractLsb' 0 24 = 0#24 then .ok i else .error .reservedBits

/-- Format B: [23:8] reserved, [7:0] a byte (rule R58). -/
def decodeB (mk : Byte → Instr) (w : Word) : Except IllegalWord Instr :=
  if w.extractLsb' 8 16 = 0#16 then .ok (mk (lowByte w)) else .error .reservedBits

/-- Format W: [23:16] reserved, [15:8] the high byte, [7:0] the low byte (rule R59). -/
def decodeW (mk : Byte → Byte → Instr) (w : Word) : Except IllegalWord Instr :=
  if w.extractLsb' 16 8 = 0#8 then .ok (mk (secondByte w) (lowByte w)) else .error .reservedBits

/-- Format H: [23:22] TT, [21] BC, [20] DIR, [19:16] reserved, [15:8] NODE, [7:0] OBJ (rule R60). -/
def decodeH (mk : BitVec 2 → BitVec 1 → BitVec 1 → Byte → Byte → Instr) (w : Word) : Except IllegalWord Instr :=
  if w.extractLsb' 16 4 = 0#4 then
    .ok (mk (w.extractLsb' 22 2) (w.extractLsb' 21 1) (w.extractLsb' 20 1) (secondByte w) (lowByte w))
  else .error .reservedBits

/-- Format I: [23:0] an unsigned integer, no reserved bits (rule R61). -/
def decodeI (mk : BitVec 24 → Instr) (w : Word) : Except IllegalWord Instr := .ok (mk (w.extractLsb' 0 24))

/-- Decode of a word (rule R64): the opcode selects the command and its format; a nonzero reserved bit or an opcode
outside the map makes the word illegal. -/
def decode (w : Word) : Except IllegalWord Instr :=
  match (opcodeOf w).toNat with
  | 0x10 => decodeN .csClr w
  | 0x11 => decodeB .csAdd w
  | 0x12 => decodeW .csChk w
  | 0x20 => decodeH .encHdr w
  | 0x21 => decodeB .encPush w
  | 0x22 => decodeN .encEnd w
  | 0x30 => decodeN .decClr w
  | 0x31 => decodeB .decPush w
  | 0x32 => decodeN .decEnd w
  | 0x40 => decodeI .qLdv w
  | 0x41 => decodeI .qLdn w
  | 0x42 => decodeN .qToreg w
  | 0x43 => decodeW .qFrom16 w
  | 0x44 => decodeB .qFrom8 w
  | 0xF0 => decodeN .stClr w
  | _ => .error .reservedOpcode

/-! ### The encoder -/

/-- Format N (rule R57). -/
def encodeN (op : BitVec 8) : Word := op ++ 0#24

/-- Format B (rule R58). -/
def encodeB (op : BitVec 8) (b : Byte) : Word := op ++ 0#16 ++ b

/-- Format W (rule R59). -/
def encodeW (op : BitVec 8) (hi lo : Byte) : Word := op ++ 0#8 ++ hi ++ lo

/-- Format H (rule R60). -/
def encodeH (op : BitVec 8) (tt : BitVec 2) (bc dir : BitVec 1) (node obj : Byte) : Word :=
  op ++ tt ++ bc ++ dir ++ 0#4 ++ node ++ obj

/-- Format I (rule R61). -/
def encodeI (op : BitVec 8) (imm : BitVec 24) : Word := op ++ imm

/-- The word of a command (rules R57 to R63). -/
def encode : Instr → Word
  | .csClr => encodeN 0x10#8
  | .csAdd b => encodeB 0x11#8 b
  | .csChk hi lo => encodeW 0x12#8 hi lo
  | .encHdr tt bc dir node obj => encodeH 0x20#8 tt bc dir node obj
  | .encPush b => encodeB 0x21#8 b
  | .encEnd => encodeN 0x22#8
  | .decClr => encodeN 0x30#8
  | .decPush b => encodeB 0x31#8 b
  | .decEnd => encodeN 0x32#8
  | .qLdv imm => encodeI 0x40#8 imm
  | .qLdn imm => encodeI 0x41#8 imm
  | .qToreg => encodeN 0x42#8
  | .qFrom16 hi lo => encodeW 0x43#8 hi lo
  | .qFrom8 hi => encodeB 0x44#8 hi
  | .stClr => encodeN 0xF0#8

/-! ### The opcode map as data (rule R63)

A second reading of the encoding, kept apart from `decode`: match and mask as the map's rows print them, and operands
taken by integer arithmetic on the word's number (rule R62). -/

/-- The number in bits [lo + bits - 1 : lo] of `w`. -/
def fieldNat (w : Word) (lo bits : Nat) : Nat := w.toNat / 2 ^ lo % 2 ^ bits

/-- One row of the opcode map. -/
structure OpcodeRow where
  mnemonic : String
  mtch : Word
  mask : Word
  instr : Word → Instr

/-- "a word `w` selects the row when `w & mask = match`" (rule R63). -/
def OpcodeRow.selects (r : OpcodeRow) (w : Word) : Bool := (w &&& r.mask) == r.mtch

/-- The checksum unit's rows (rule R63). -/
def checksumRows : List OpcodeRow :=
  [ ⟨"CS_CLR", 0x10000000#32, 0xFFFFFFFF#32, fun _ => .csClr⟩,
    ⟨"CS_ADD", 0x11000000#32, 0xFFFFFF00#32, fun w => .csAdd (.ofNat 8 (fieldNat w 0 8))⟩,
    ⟨"CS_CHK", 0x12000000#32, 0xFFFF0000#32,
      fun w => .csChk (.ofNat 8 (fieldNat w 8 8)) (.ofNat 8 (fieldNat w 0 8))⟩ ]

/-- The encoder's and decoder's rows (rule R63). -/
def codecRows : List OpcodeRow :=
  [ ⟨"ENC_HDR", 0x20000000#32, 0xFF0F0000#32,
      fun w => .encHdr (.ofNat 2 (fieldNat w 22 2)) (.ofNat 1 (fieldNat w 21 1)) (.ofNat 1 (fieldNat w 20 1))
        (.ofNat 8 (fieldNat w 8 8)) (.ofNat 8 (fieldNat w 0 8))⟩,
    ⟨"ENC_PUSH", 0x21000000#32, 0xFFFFFF00#32, fun w => .encPush (.ofNat 8 (fieldNat w 0 8))⟩,
    ⟨"ENC_END", 0x22000000#32, 0xFFFFFFFF#32, fun _ => .encEnd⟩,
    ⟨"DEC_CLR", 0x30000000#32, 0xFFFFFFFF#32, fun _ => .decClr⟩,
    ⟨"DEC_PUSH", 0x31000000#32, 0xFFFFFF00#32, fun w => .decPush (.ofNat 8 (fieldNat w 0 8))⟩,
    ⟨"DEC_END", 0x32000000#32, 0xFFFFFFFF#32, fun _ => .decEnd⟩ ]

/-- The quantizer's rows and the status row (rule R63). -/
def quantizerStatusRows : List OpcodeRow :=
  [ ⟨"Q_LDV", 0x40000000#32, 0xFF000000#32, fun w => .qLdv (.ofNat 24 (fieldNat w 0 24))⟩,
    ⟨"Q_LDN", 0x41000000#32, 0xFF000000#32, fun w => .qLdn (.ofNat 24 (fieldNat w 0 24))⟩,
    ⟨"Q_TOREG", 0x42000000#32, 0xFFFFFFFF#32, fun _ => .qToreg⟩,
    ⟨"Q_FROM16", 0x43000000#32, 0xFFFF0000#32,
      fun w => .qFrom16 (.ofNat 8 (fieldNat w 8 8)) (.ofNat 8 (fieldNat w 0 8))⟩,
    ⟨"Q_FROM8", 0x44000000#32, 0xFFFFFF00#32, fun w => .qFrom8 (.ofNat 8 (fieldNat w 0 8))⟩,
    ⟨"ST_CLR", 0xF0000000#32, 0xFFFFFFFF#32, fun _ => .stClr⟩ ]

/-- The opcode map (rule R63), fifteen rows. -/
def opcodeTable : List OpcodeRow := checksumRows ++ codecRows ++ quantizerStatusRows

/-- The command the opcode map alone gives a word: the one row that selects it, if exactly one does (rule R64). -/
def decodeByTable (w : Word) : Option Instr :=
  match opcodeTable.filter (·.selects w) with
  | [r] => some (r.instr w)
  | _ => none

/-- A command's mnemonic in the opcode map. -/
def Instr.mnemonic : Instr → String
  | .csClr => "CS_CLR"
  | .csAdd _ => "CS_ADD"
  | .csChk _ _ => "CS_CHK"
  | .encHdr _ _ _ _ _ => "ENC_HDR"
  | .encPush _ => "ENC_PUSH"
  | .encEnd => "ENC_END"
  | .decClr => "DEC_CLR"
  | .decPush _ => "DEC_PUSH"
  | .decEnd => "DEC_END"
  | .qLdv _ => "Q_LDV"
  | .qLdn _ => "Q_LDN"
  | .qToreg => "Q_TOREG"
  | .qFrom16 _ _ => "Q_FROM16"
  | .qFrom8 _ => "Q_FROM8"
  | .stClr => "ST_CLR"

/-- The command word whose `nbits` low bits are `w`, higher bits 0. Command words have no byte order (20_memory.md rule
R41), so nothing is laid out in bytes. -/
def tableWord (nbits w : Nat) : Word := .ofNat 32 (w % 2 ^ nbits)

/-- The command the decoder reads from an opcode-table word. Every command is one 32-bit word (rule R66), so a longer
one is none (DESIGN CHOICE, log entry 4). -/
def decodeTableWord (nbits w : Nat) : Option Instr :=
  if nbits ≤ 32 then
    match decode (tableWord nbits w) with
    | .ok i => some i
    | .error _ => none
  else none

end Sys2Proof
end

