-- ==== Sys2Proof/Config.lean ====
section
/-! DEFINITION. The fixed parameters of the block (00_scope.md rule R6: "No parameter is left open to the model").
There is no free value: every value the block produces is stated by a rule. -/

namespace Sys2Proof.Config

/-- The full-scale register value (rules R6, R92, R96). -/
@[simp] abbrev fullScale : Nat := 25600

/-- The most payload bytes a telegram carries (rule R6; 90_conflicts.md C1). -/
@[simp] abbrev maxPayload : Nat := 16

/-- The longest telegram: 3 header bytes, 16 payload bytes, 2 trailer bytes (rule R6). -/
@[simp] abbrev maxTelegram : Nat := 21

/-- The value at which the receive byte counter saturates (rules R6, R25). -/
@[simp] abbrev rxCountMax : Nat := 255

/-- The modulus of the checksum (rules R6, R85). -/
@[simp] abbrev checksumModulus : Nat := 65536

end Sys2Proof.Config
end

