-- ==== Sys2Proof/Machine/State.lean ====
section
/-! DEFINITION. The state of the block (10_state.md), as plain data, grouped by the units that own it (rules R31, R127);
its value after reset (rule R32); and the host's side of the interface (70_reset_and_hazards.md rule R132). -/

namespace Sys2Proof.Machine

/-! ### STATUS (rules R16 to R20) -/

/-- ENC_STAT (rule R17). Code 3 "is never written" and cannot be built (93_implementation_defined.md I10). -/
inductive EncStat where
  /-- 0: no ENC_END since reset or ST_CLR. -/
  | none
  /-- 1: the last ENC_END built a telegram. -/
  | ok
  /-- 2: the last ENC_END found a payload length outside 1 to 16. -/
  | lengthError
deriving DecidableEq, Repr

/-- DEC_STAT (rule R18). -/
inductive DecStat where
  /-- 0: no DEC_END since reset or ST_CLR. -/
  | none
  /-- 1: the last DEC_END accepted the telegram. -/
  | ok
  /-- 2: the trailer differs from the sum of the bytes before it. -/
  | checksumMismatch
  /-- 3: the payload length differs from the declared one, or fewer than two bytes were pushed. -/
  | lengthMismatch
deriving DecidableEq, Repr

/-- Q_STAT (rule R19). Code 3 "is never written" and cannot be built (93_implementation_defined.md I10). -/
inductive QStat where
  /-- 0: no conversion since reset or ST_CLR. -/
  | none
  /-- 1: the last conversion succeeded. -/
  | ok
  /-- 2: the physical value was outside 0 to the nominal, or the nominal was 0. -/
  | rangeError
deriving DecidableEq, Repr

/-- The STATUS register's fields (rule R16); `Status.toByte` in Flags.lean lays them out. -/
structure Status where
  /-- ENC_STAT, bits [1:0]. -/
  enc : EncStat
  /-- DEC_STAT, bits [3:2]. -/
  dec : DecStat
  /-- Q_STAT, bits [5:4]. -/
  q : QStat
  /-- CS_MATCH, bit [6]. -/
  csMatch : Bool
  /-- ILL, bit [7], sticky. -/
  ill : Bool
deriving DecidableEq, Repr

/-! ### Encoder (rules R22 to R24) -/

/-- The encoder's header registers TX_TT, TX_BC, TX_DIR, TX_NODE, TX_OBJ (rule R22). -/
structure TxHeader where
  tt : BitVec 2
  bc : BitVec 1
  dir : BitVec 1
  node : Byte
  obj : Byte
deriving DecidableEq, Repr

/-- The encoder's payload state TX_PAY, TX_CNT, TX_OVF (rule R23). -/
structure TxPayload where
  pay : Vector Byte 16
  cnt : BitVec 5
  ovf : Bool
deriving DecidableEq, Repr

/-- The encoder's output TX_BUF, TX_LEN: the last telegram built (rule R24). -/
structure TxFrame where
  buf : Vector Byte 21
  len : BitVec 5
deriving DecidableEq, Repr

/-! ### Decoder (rules R25 to R27) -/

/-- The decoder's stream state RX_N, RX_SUM, RX_W1, RX_W0 and the capture buffer RX_RAW (rules R25, R26). -/
structure RxStream where
  n : BitVec 8
  sum : Half
  w1 : Byte
  w0 : Byte
  raw : Vector Byte 21
deriving DecidableEq, Repr

/-- The decoder's results RX_DELIM, RX_NODE, RX_OBJ, RX_PLEN, RX_PAY: the last good telegram (rule R27). -/
structure RxFrame where
  delim : Byte
  node : Byte
  obj : Byte
  plen : BitVec 5
  pay : Vector Byte 16
deriving DecidableEq, Repr

/-! ### Quantizer (rules R28 to R30) -/

/-- QV, QN, QREG, QP_INT, QP_FRAC. -/
structure Quantizer where
  qv : BitVec 24
  qn : BitVec 24
  qreg : Half
  qpInt : BitVec 32
  qpFrac : Half
deriving DecidableEq, Repr

/-! ### The host's side -/

/-- One action of the host (rule R132: "a command word ..., a `HostRead(a)`, or reset"). -/
inductive HostAction where
  /-- A word on the command port. -/
  | command (w : Word)
  /-- A read of one register address. -/
  | read (a : Addr)
  /-- The reset input. -/
  | reset
deriving DecidableEq, Repr

/-- The block's state, every element of 10_state.md, and the host's pending actions and past reads. -/
structure State where
  status : Status
  /-- CSUM (rule R21). -/
  csum : Half
  txHdr : TxHeader
  txPay : TxPayload
  txOut : TxFrame
  rx : RxStream
  rxOut : RxFrame
  quant : Quantizer
  /-- The MODEL's own field: the actions the host has yet to present, oldest first (DESIGN CHOICE, log entry 1). -/
  port : List HostAction
  /-- The MODEL's own field: the values HostRead returned, oldest first, a run's observation (rule R132; DESIGN CHOICE,
  log entry 1). -/
  reads : List Word
deriving DecidableEq, Repr

/-! ### Reset values (rule R32: every element 0) -/

/-- STATUS after reset, `0x00` (rules R16, R123). -/
def Status.clear : Status := ⟨.none, .none, .none, false, false⟩

/-- The header registers after reset (rule R22). -/
def TxHeader.zero : TxHeader := ⟨0, 0, 0, 0, 0⟩

/-- No payload byte held: after reset and after ENC_HDR (rules R23, R71). -/
def TxPayload.empty : TxPayload := ⟨Vector.replicate 16 0, 0, false⟩

/-- No telegram: after reset and after a failed ENC_END (rules R24, R73). -/
def TxFrame.empty : TxFrame := ⟨Vector.replicate 21 0, 0⟩

/-- The empty stream: after reset, DEC_CLR and DEC_END (rules R25, R26, R76, R79). -/
def RxStream.empty : RxStream := ⟨0, 0, 0, 0, Vector.replicate 21 0⟩

/-- No telegram decoded (rule R27). -/
def RxFrame.empty : RxFrame := ⟨0, 0, 0, 0, Vector.replicate 16 0⟩

/-- The quantizer after reset (rules R28 to R30). -/
def Quantizer.zero : Quantizer := ⟨0, 0, 0, 0, 0⟩

/-- The block right after reset (rules R32, R122, R123), the host having presented nothing and read nothing. -/
def State.reset : State where
  status := Status.clear
  csum := 0
  txHdr := TxHeader.zero
  txPay := TxPayload.empty
  txOut := TxFrame.empty
  rx := RxStream.empty
  rxOut := RxFrame.empty
  quant := Quantizer.zero
  port := []
  reads := []

/-! ### Why a step could stop -/

/-- The faults of the block: none. Rule R107: every error is a STATUS code; rule R113: "There is no trap entry"; rule R129:
"A model of the block has no stuck state and no hang". Nothing raises a fault, so the type has no constructor. -/
inductive Fault where
deriving DecidableEq, Repr

/-- The refusals of the model. -/
inductive Refusal where
  /-- An instruction without a meaning. Only an arm of `exec` may raise it, and none does: every command has its meaning.
  Safe: it stops a run where the block would go on. -/
  | notModelled (mnemonic : String)
deriving DecidableEq, Repr

end Sys2Proof.Machine
end

