-- ==== Sys2Proof/Machine/Ops.lean ====
section
/-! DEFINITION. The shared operations over the state: named updates, the checksum function, the buffers' operations,
the effect of an illegal word (the block's one fault indication of the command port), reset as a host action, and the
read port with its register map. -/

namespace Sys2Proof.Machine

/-! ### Named updates: each writes one element group and nothing else -/

def State.setStatus (s : State) (v : Status) : State := { s with status := v }
def State.setCsum (s : State) (v : Half) : State := { s with csum := v }
def State.setTxHdr (s : State) (v : TxHeader) : State := { s with txHdr := v }
def State.setTxPay (s : State) (v : TxPayload) : State := { s with txPay := v }
def State.setTxOut (s : State) (v : TxFrame) : State := { s with txOut := v }
def State.setRx (s : State) (v : RxStream) : State := { s with rx := v }
def State.setRxOut (s : State) (v : RxFrame) : State := { s with rxOut := v }
def State.setQuant (s : State) (v : Quantizer) : State := { s with quant := v }
def State.setPort (s : State) (v : List HostAction) : State := { s with port := v }
def State.setReads (s : State) (v : List Word) : State := { s with reads := v }

def Status.setEnc (t : Status) (v : EncStat) : Status := { t with enc := v }
def Status.setDec (t : Status) (v : DecStat) : Status := { t with dec := v }
def Status.setQ (t : Status) (v : QStat) : Status := { t with q := v }
def Status.setCsMatch (t : Status) (v : Bool) : Status := { t with csMatch := v }
def Status.setIll (t : Status) (v : Bool) : Status := { t with ill := v }

def Quantizer.setQv (t : Quantizer) (v : BitVec 24) : Quantizer := { t with qv := v }
def Quantizer.setQn (t : Quantizer) (v : BitVec 24) : Quantizer := { t with qn := v }
def Quantizer.setQreg (t : Quantizer) (v : Half) : Quantizer := { t with qreg := v }
def Quantizer.setQp (t : Quantizer) (int : BitVec 32) (frac : Half) : Quantizer :=
  { t with qpInt := int, qpFrac := frac }

/-! ### The checksum function -/

/-- `csum16(seq)`: the sum of the bytes modulo 65536 (42_checksum.md rule R85). -/
def csum16 (seq : List Byte) : Half := .ofNat 16 (seq.map BitVec.toNat).sum

/-- The trailer of a checksum: high byte `s[15:8]`, then low byte `s[7:0]` (rules R39, R85). -/
def trailer (c : Half) : List Byte := [c.extractLsb' 8 8, c.extractLsb' 0 8]

/-! ### Buffers -/

/-- The bytes `l` in a buffer of `n` entries, 0 beyond them (rules R24, R26, R27). -/
def padTo (n : Nat) (l : List Byte) : Vector Byte n := Vector.ofFn fun i => l.getD i.val 0

/-- The byte at index `i` of a buffer, 0 outside it. -/
def byteAt {n : Nat} (v : Vector Byte n) (i : Nat) : Byte := v[i]?.getD 0

/-- Append one payload byte; with 16 held the byte is discarded and TX_OVF marked (41_codec.md rule R72). -/
def TxPayload.push (p : TxPayload) (b : Byte) : TxPayload :=
  if p.cnt.toNat < Config.maxPayload then
    { p with pay := p.pay.setIfInBounds p.cnt.toNat b, cnt := p.cnt + 1 }
  else { p with ovf := true }

/-- The payload bytes held, in push order: `TX_PAY[0 .. TX_CNT-1]` (rule R23). -/
def TxPayload.bytes (p : TxPayload) : List Byte := p.pay.toList.take p.cnt.toNat

/-- Receive one byte (41_codec.md rule R77): the byte leaving the two-byte window joins the sum, the window shifts, the
byte is captured while fewer than 21 are held, and the count saturates at 255. -/
def RxStream.push (r : RxStream) (b : Byte) : RxStream where
  n := .ofNat 8 (min (r.n.toNat + 1) Config.rxCountMax)
  sum := if 2 ≤ r.n.toNat then r.sum + r.w1.setWidth 16 else r.sum
  w1 := r.w0
  w0 := b
  raw := if r.n.toNat < Config.maxTelegram then r.raw.setIfInBounds r.n.toNat b else r.raw

/-- The payload length of the stream, `(n >= 5) ? n - 5 : 0` (41_codec.md rule R79). -/
def RxStream.plen (r : RxStream) : Nat := if 5 ≤ r.n.toNat then r.n.toNat - 5 else 0

/-- The results an OK verdict writes (41_codec.md rule R79): header bytes, payload length, payload padded with 0. -/
def RxStream.result (r : RxStream) : RxFrame where
  delim := byteAt r.raw 0
  node := byteAt r.raw 1
  obj := byteAt r.raw 2
  plen := .ofNat 5 r.plen
  pay := padTo 16 ((r.raw.toList.drop 3).take r.plen)

/-! ### The command port's fault indication -/

/-- The effect of an illegal word: `ILL <- 1` and nothing else (44_status.md rule R104). The block takes no exception
(60_exceptions.md rule R113): this, and the STATUS code each command writes, stand where another machine has trap entry. -/
def State.takeIllegal (s : State) : State := s.setStatus (s.status.setIll true)

/-! ### Reset as a host action -/

/-- Reset between two commands (70_reset_and_hazards.md rule R122): every element to its reset value; what the host has
yet to present and has read is the host's and stays (DEDUCED, log entry 5). -/
def State.applyReset (s : State) : State := (State.reset.setPort s.port).setReads s.reads

end Sys2Proof.Machine
end

