-- ==== Sys2Proof/Machine/Operands.lean ====
section
/-! DEFINITION. The operand forms of the commands (30_encoding.md rule R62) and the values built from them: byte pairs,
start delimiters, telegrams, and the quantizer's exact arithmetic. -/

namespace Sys2Proof.Machine

/-- The two-byte value `hi*256 + lo`, high byte first (rules R40, R59, R62). -/
def pairValue (hi lo : Byte) : Half := hi ++ lo

/-- A byte operand as a 16-bit addend, zero-extended (rule R62). -/
def byteValue (b : Byte) : Half := b.setWidth 16

/-- The start delimiter: bits [7:6] tt, [5] bc, [4] dir, [3:0] the payload length less one (41_codec.md rule R69). -/
def delim (tt : BitVec 2) (bc dir : BitVec 1) (k : Nat) : Byte := tt ++ bc ++ dir ++ BitVec.ofNat 4 (k - 1)

/-- `data_length = (start_delimiter & 0x0F) + 1` (41_codec.md rule R75, 20_memory.md rule R46). -/
def declaredLength (d : Byte) : Nat := (d.extractLsb' 0 4).toNat + 1

/-- Header and payload bytes followed by their checksum, high byte first (41_codec.md rules R70, R73). -/
def sealTelegram (t : List Byte) : List Byte := t ++ trailer (csum16 t)

/-- The telegram ENC_END builds from the header registers and the payload held (41_codec.md rule R73). -/
def buildTelegram (h : TxHeader) (p : TxPayload) : List Byte :=
  sealTelegram (delim h.tt h.bc h.dir p.cnt.toNat :: h.node :: h.obj :: p.bytes)

/-- TX_BUF and TX_LEN after a successful ENC_END: the telegram, 0 beyond it, and `k + 5` (41_codec.md rule R73). -/
def TxFrame.holding (h : TxHeader) (p : TxPayload) : TxFrame where
  buf := padTo 21 (buildTelegram h p)
  len := .ofNat 5 (p.cnt.toNat + 5)

/-- `to_register(V, N)` (43_quantizer.md rule R92): the quotient `25600 * V / N` rounded to nearest, an exact tie to the
even neighbour; none is RangeError. -/
def toRegister (v n : Nat) : Option Nat :=
  if n = 0 ∨ n < v then none
  else
    let num := Config.fullScale * v
    let q := num / n
    let r := num % n
    if 2 * r < n then some q
    else if n < 2 * r then some (q + 1)
    else if q % 2 = 0 then some q
    else some (q + 1)

/-- `from_register(N, R)` (43_quantizer.md rule R96): the integer part and the numerator over 25600 of `N * R / 25600`. -/
def fromRegister (n r : Nat) : Nat × Nat := (n * r / Config.fullScale, n * r % Config.fullScale)

/-- The quantizer with the physical value of register `r` in QP_INT and QP_FRAC (43_quantizer.md rules R97, R98). -/
def Quantizer.physical (t : Quantizer) (r : Half) : Quantizer :=
  t.setQp (.ofNat 32 (fromRegister t.qn.toNat r.toNat).1) (.ofNat 16 (fromRegister t.qn.toNat r.toNat).2)

end Sys2Proof.Machine
end

