-- ==== Sys2Proof/Machine/Flags.lean ====
section
/-! DEFINITION. The verdicts the commands record in STATUS (10_state.md rules R16 to R20, 60_exceptions.md rules R107,
R112) and the STATUS byte's layout. The block has no condition codes (rule R20). -/

namespace Sys2Proof.Machine

/-- ENC_STAT's code (rule R17). -/
def EncStat.code : EncStat → BitVec 2
  | .none => 0
  | .ok => 1
  | .lengthError => 2

/-- DEC_STAT's code (rule R18). -/
def DecStat.code : DecStat → BitVec 2
  | .none => 0
  | .ok => 1
  | .checksumMismatch => 2
  | .lengthMismatch => 3

/-- Q_STAT's code (rule R19). -/
def QStat.code : QStat → BitVec 2
  | .none => 0
  | .ok => 1
  | .rangeError => 2

/-- STATUS as one byte: [1:0] ENC_STAT, [3:2] DEC_STAT, [5:4] Q_STAT, [6] CS_MATCH, [7] ILL (rule R16). -/
def Status.toByte (t : Status) : Byte :=
  BitVec.ofBool t.ill ++ BitVec.ofBool t.csMatch ++ t.q.code ++ t.dec.code ++ t.enc.code

/-- ENC_END's verdict (41_codec.md rule R73): LENGTH_ERROR with no payload byte held or after an overflow. -/
def TxPayload.verdict (p : TxPayload) : EncStat :=
  if p.ovf ∨ p.cnt.toNat = 0 then .lengthError else .ok

/-- DEC_END's verdict (41_codec.md rule R79, 60_exceptions.md rule R112): too short, then the checksum, then the length. -/
def RxStream.verdict (r : RxStream) : DecStat :=
  if r.n.toNat < 2 then .lengthMismatch
  else if r.sum ≠ pairValue r.w1 r.w0 then .checksumMismatch
  else if r.plen = declaredLength (byteAt r.raw 0) then .ok
  else .lengthMismatch

/-- CS_CHK's verdict (42_checksum.md rule R89). -/
def checksumMatches (csum : Half) (hi lo : Byte) : Bool := csum == pairValue hi lo

end Sys2Proof.Machine
end

