-- ==== Sys2Proof/Machine/Checksum.lean ====
section
/-! DEFINITION. The standalone checksum unit's commands (42_checksum.md rules R87 to R89). -/

namespace Sys2Proof.Machine

/-- CS_CLR (rule R87). -/
def execCsClr (s : State) : Host.Outcome State Fault Refusal :=
  .next ((s.setCsum 0).setStatus (s.status.setCsMatch false))

/-- CS_ADD b (rule R88). -/
def execCsAdd (b : Byte) (s : State) : Host.Outcome State Fault Refusal :=
  .next (s.setCsum (s.csum + byteValue b))

/-- CS_CHK hi, lo (rule R89). -/
def execCsChk (hi lo : Byte) (s : State) : Host.Outcome State Fault Refusal :=
  .next (s.setStatus (s.status.setCsMatch (checksumMatches s.csum hi lo)))

end Sys2Proof.Machine
end

