-- ==== Sys2Proof/Machine/Decoder.lean ====
section
/-! DEFINITION. The decoder's commands (41_codec.md rules R76 to R79). -/

namespace Sys2Proof.Machine

/-- DEC_CLR (rule R76): the stream is discarded; results and DEC_STAT keep their values. -/
def execDecClr (s : State) : Host.Outcome State Fault Refusal :=
  .next (s.setRx RxStream.empty)

/-- DEC_PUSH b (rule R77). -/
def execDecPush (b : Byte) (s : State) : Host.Outcome State Fault Refusal :=
  .next (s.setRx (s.rx.push b))

/-- DEC_END (rule R79): the verdict is recorded, the results written only when it is OK, and the stream consumed
whatever the verdict. The decoder checks the checksum and the length and nothing else (rule R83). -/
def execDecEnd (s : State) : Host.Outcome State Fault Refusal :=
  let v := s.rx.verdict
  let out := if v = .ok then s.rx.result else s.rxOut
  .next (((s.setRxOut out).setStatus (s.status.setDec v)).setRx RxStream.empty)

end Sys2Proof.Machine
end

