-- ==== Sys2Proof/Machine/Encoder.lean ====
section
/-! DEFINITION. The encoder's commands (41_codec.md rules R71 to R73). -/

namespace Sys2Proof.Machine

/-- ENC_HDR tt, bc, dir, node, obj (rule R71): the header is set and the payload emptied; TX_BUF, TX_LEN and ENC_STAT
keep their values. -/
def execEncHdr (tt : BitVec 2) (bc dir : BitVec 1) (node obj : Byte) (s : State) :
    Host.Outcome State Fault Refusal :=
  .next ((s.setTxHdr ⟨tt, bc, dir, node, obj⟩).setTxPay TxPayload.empty)

/-- ENC_PUSH b (rule R72). -/
def execEncPush (b : Byte) (s : State) : Host.Outcome State Fault Refusal :=
  .next (s.setTxPay (s.txPay.push b))

/-- ENC_END (rule R73): TX_BUF and TX_LEN hold the telegram, or nothing on LENGTH_ERROR; ENC_STAT is always written;
the header and payload registers keep their values. -/
def execEncEnd (s : State) : Host.Outcome State Fault Refusal :=
  let v := s.txPay.verdict
  let out := if v = .ok then TxFrame.holding s.txHdr s.txPay else TxFrame.empty
  .next ((s.setTxOut out).setStatus (s.status.setEnc v))

end Sys2Proof.Machine
end

