-- ==== Sys2Proof/Machine/Quant.lean ====
section
/-! DEFINITION. The register quantizer's commands (43_quantizer.md rules R93 to R98). -/

namespace Sys2Proof.Machine

/-- Q_LDV imm (rule R93). -/
def execQLdv (imm : BitVec 24) (s : State) : Host.Outcome State Fault Refusal :=
  .next (s.setQuant (s.quant.setQv imm))

/-- Q_LDN imm (rule R94). -/
def execQLdn (imm : BitVec 24) (s : State) : Host.Outcome State Fault Refusal :=
  .next (s.setQuant (s.quant.setQn imm))

/-- Q_TOREG (rule R95): QREG on success; on RANGE_ERROR QREG keeps its value; Q_STAT always. -/
def execQToreg (s : State) : Host.Outcome State Fault Refusal :=
  match toRegister s.quant.qv.toNat s.quant.qn.toNat with
  | some r => .next ((s.setQuant (s.quant.setQreg (.ofNat 16 r))).setStatus (s.status.setQ .ok))
  | none => .next (s.setStatus (s.status.setQ .rangeError))

/-- Q_FROM16 hi, lo (rule R97). -/
def execQFrom16 (hi lo : Byte) (s : State) : Host.Outcome State Fault Refusal :=
  .next ((s.setQuant (s.quant.physical (pairValue hi lo))).setStatus (s.status.setQ .ok))

/-- Q_FROM8 hi (rule R98): the low byte is taken as 0. -/
def execQFrom8 (hi : Byte) (s : State) : Host.Outcome State Fault Refusal :=
  .next ((s.setQuant (s.quant.physical (pairValue hi 0))).setStatus (s.status.setQ .ok))

end Sys2Proof.Machine
end

