-- ==== Sys2Proof/Machine/StatusCmd.lean ====
section
/-! DEFINITION. The status command (44_status.md rule R103). -/

namespace Sys2Proof.Machine

/-- ST_CLR (rule R103): every STATUS field to 0; no data register changes. -/
def execStClr (s : State) : Host.Outcome State Fault Refusal :=
  .next (s.setStatus Status.clear)

end Sys2Proof.Machine
end

