-- ==== Sys2Proof/Machine/Dispatch.lean ====
section
/-! DEFINITION. One arm per command of the opcode map (30_encoding.md rule R63). -/

namespace Sys2Proof.Machine

/-- The effect of a command: one atomic step (00_scope.md rule R9). -/
def exec (i : Instr) (s : State) : Host.Outcome State Fault Refusal :=
  match i with
  | .csClr => Sys2Proof.Machine.execCsClr s
  | .csAdd b => Sys2Proof.Machine.execCsAdd b s
  | .csChk hi lo => Sys2Proof.Machine.execCsChk hi lo s
  | .encHdr tt bc dir node obj => Sys2Proof.Machine.execEncHdr tt bc dir node obj s
  | .encPush b => Sys2Proof.Machine.execEncPush b s
  | .encEnd => Sys2Proof.Machine.execEncEnd s
  | .decClr => Sys2Proof.Machine.execDecClr s
  | .decPush b => Sys2Proof.Machine.execDecPush b s
  | .decEnd => Sys2Proof.Machine.execDecEnd s
  | .qLdv imm => Sys2Proof.Machine.execQLdv imm s
  | .qLdn imm => Sys2Proof.Machine.execQLdn imm s
  | .qToreg => Sys2Proof.Machine.execQToreg s
  | .qFrom16 hi lo => Sys2Proof.Machine.execQFrom16 hi lo s
  | .qFrom8 hi => Sys2Proof.Machine.execQFrom8 hi s
  | .stClr => Sys2Proof.Machine.execStClr s

end Sys2Proof.Machine
end

