-- ==== Sys2Proof/Machine/ReadPort.lean ====
section
/-! DEFINITION. The read port `HostRead(a)` and its register map (20_memory.md rules R44 to R47). -/

namespace Sys2Proof.Machine

/-- A byte in bits [7:0], every other bit 0 (rule R45). -/
def byteWord (b : Byte) : Word := b.setWidth 32

/-- Address 0x02, TX_CTL: [4:0] TX_CNT, [5] TX_OVF, [12:8] TX_LEN (rule R45). -/
def State.txCtl (s : State) : Word :=
  0#19 ++ s.txOut.len ++ 0#2 ++ BitVec.ofBool s.txPay.ovf ++ s.txPay.cnt

/-- Address 0x03, TX_HDR: [7:0] TX_OBJ, [15:8] TX_NODE, [20] TX_DIR, [21] TX_BC, [23:22] TX_TT (rule R45). -/
def State.txHdrWord (s : State) : Word :=
  0#8 ++ s.txHdr.tt ++ s.txHdr.bc ++ s.txHdr.dir ++ 0#4 ++ s.txHdr.node ++ s.txHdr.obj

/-- Address 0x04, RX_STREAM: [7:0] RX_W0, [15:8] RX_W1, [23:16] RX_N (rule R45). -/
def State.rxStreamWord (s : State) : Word := 0#8 ++ s.rx.n ++ s.rx.w1 ++ s.rx.w0

/-- Address 0x06, RX_HDR: [7:0] RX_OBJ, [15:8] RX_NODE, [23:16] RX_DELIM, [28:24] RX_PLEN (rule R45). -/
def State.rxHdrWord (s : State) : Word :=
  0#3 ++ s.rxOut.plen ++ s.rxOut.delim ++ s.rxOut.node ++ s.rxOut.obj

/-- Address 0x0C, RX_FIELDS, a view of RX_DELIM: [4:0] data_length, [8] direction, [9] broadcast, [11:10]
transmission_type (rule R46). -/
def State.rxFields (s : State) : Word :=
  0#20 ++ s.rxOut.delim.extractLsb' 6 2 ++ s.rxOut.delim.extractLsb' 5 1 ++ s.rxOut.delim.extractLsb' 4 1 ++ 0#3
    ++ BitVec.ofNat 5 (declaredLength s.rxOut.delim)

/-- The buffers' part of the register map, one byte a location (rule R45); every other address reads 0 (rule R47). -/
def State.bufferWord (s : State) (a : Nat) : Word :=
  if 0x20 ≤ a ∧ a ≤ 0x34 then byteWord (byteAt s.txOut.buf (a - 0x20))
  else if 0x40 ≤ a ∧ a ≤ 0x4F then byteWord (byteAt s.txPay.pay (a - 0x40))
  else if 0x50 ≤ a ∧ a ≤ 0x64 then byteWord (byteAt s.rx.raw (a - 0x50))
  else if 0x70 ≤ a ∧ a ≤ 0x7F then byteWord (byteAt s.rxOut.pay (a - 0x70))
  else 0

/-- `HostRead(a)`: the register map of rule R45, total (rule R44). -/
def hostRead (s : State) (a : Addr) : Word :=
  match a.toNat with
  | 0x00 => byteWord s.status.toByte
  | 0x01 => s.csum.setWidth 32
  | 0x02 => s.txCtl
  | 0x03 => s.txHdrWord
  | 0x04 => s.rxStreamWord
  | 0x05 => s.rx.sum.setWidth 32
  | 0x06 => s.rxHdrWord
  | 0x07 => s.quant.qv.setWidth 32
  | 0x08 => s.quant.qn.setWidth 32
  | 0x09 => s.quant.qreg.setWidth 32
  | 0x0A => s.quant.qpInt
  | 0x0B => s.quant.qpFrac.setWidth 32
  | 0x0C => s.rxFields
  | k => s.bufferWord k

/-- A HostRead as a host action: the value is observed and nothing else changes (rules R43, R132). -/
def State.observe (s : State) (a : Addr) : State := s.setReads (s.reads ++ [hostRead s a])

end Sys2Proof.Machine
end

