-- ==== Sys2Proof/Machine/HostPort.lean ====
section
/-! DEFINITION. The three interfaces of the block (00_scope.md rule R3): the command port, the read port and the reset
input, and a finite sequence of host actions (70_reset_and_hazards.md rule R132). -/

namespace Sys2Proof.Machine

/-- The command port is given one word (30_encoding.md rule R56): the block "either executes the one command it selects,
atomically, or treats it as illegal". -/
def acceptWord (w : Word) (s : State) : Host.Outcome State Fault Refusal :=
  match decode w with
  | .ok i => exec i s
  | .error _ => .next s.takeIllegal

/-- One host action (rule R132). -/
def performAction (a : HostAction) (s : State) : Host.Outcome State Fault Refusal :=
  match a with
  | .command w => acceptWord w s
  | .read adr => .next (s.observe adr)
  | .reset => .next s.applyReset

/-- Host actions in issue order (20_memory.md rule R49). -/
def performAll : List HostAction → State → Host.Outcome State Fault Refusal
  | [], s => .next s
  | a :: rest, s =>
    match performAction a s with
    | .next t => performAll rest t
    | .fault r => .fault r
    | .refused r => .refused r

/-- The host issues the words of `is` in order. -/
def issue (is : List Instr) (s : State) : Host.Outcome State Fault Refusal :=
  performAll (is.map fun i => .command (encode i)) s

/-- What one step does with the host's pending actions: the oldest is performed; with none pending the block waits
(60_exceptions.md rule R121, rule R123), its state unchanged (DEDUCED, log entry 2). -/
def serveHost (s : State) : Host.Outcome State Fault Refusal :=
  match s.port with
  | [] => .next s
  | a :: rest => performAction a (s.setPort rest)

/-- The host presents word `w` next, before what it was going to present (DESIGN CHOICE, log entry 3). -/
def State.presentWord (s : State) (w : Word) : State := s.setPort (.command w :: s.port)

end Sys2Proof.Machine
end

