-- ==== Sys2Proof/Machine/Step.lean ====
section
/-! DEFINITION. One step of the machine, and how a word is placed where the next step takes it. The block fetches
nothing (20_memory.md rule R52): a step takes the host's next action. -/

namespace Sys2Proof.Machine

/-- One step: the host's oldest pending action, whole (00_scope.md rule R9, 70_reset_and_hazards.md rule R132). -/
def step (s : State) : Host.Outcome State Fault Refusal := serveHost s

/-- The opcode-table word `w` presented next on the command port (log entries 3, 4). -/
def State.withFetchWord (s : State) (nbits w : Nat) : State := s.presentWord (tableWord nbits w)

end Sys2Proof.Machine
end

