-- ==== Sys2Proof/Machine/Assembler.lean ====
section
/-! DEFINITION. The spec's assembler (30_encoding.md rule R67): "one command per line, operands separated by commas,
numbers in decimal or `0x` hex, `;` starting a comment", refusing an operand that does not fit its field. -/

namespace Sys2Proof

/-! ### Written commands to words -/

/-- The command of a written form whose operands fit (the caller has checked `AsmLine.wellFormed`). -/
def AsmLine.command : AsmLine → Instr
  | .csClr => .csClr
  | .csAdd b => .csAdd (.ofNat 8 b)
  | .csChk hi lo => .csChk (.ofNat 8 hi) (.ofNat 8 lo)
  | .encHdr tt bc dir node obj =>
    .encHdr (.ofNat 2 tt) (.ofNat 1 bc) (.ofNat 1 dir) (.ofNat 8 node) (.ofNat 8 obj)
  | .encPush b => .encPush (.ofNat 8 b)
  | .encEnd => .encEnd
  | .decClr => .decClr
  | .decPush b => .decPush (.ofNat 8 b)
  | .decEnd => .decEnd
  | .qLdv imm => .qLdv (.ofNat 24 imm)
  | .qLdn imm => .qLdn (.ofNat 24 imm)
  | .qToreg => .qToreg
  | .qFrom16 hi lo => .qFrom16 (.ofNat 8 hi) (.ofNat 8 lo)
  | .qFrom8 hi => .qFrom8 (.ofNat 8 hi)
  | .stClr => .stClr

/-- The word of a written command; "An assembler refuses an operand that does not fit its field ...; it never truncates"
(rule R67). -/
def AsmLine.assemble (l : AsmLine) : Option Word := if l.wellFormed then some (encode l.command) else none

/-- The number the table of rule R67 gives a written form, as its arithmetic prints it: `OP << 24` with the operands
or-ed in. -/
def AsmLine.wordNumber : AsmLine → Nat
  | .csClr => 0x10 <<< 24
  | .csAdd b => (0x11 <<< 24) ||| b
  | .csChk hi lo => (0x12 <<< 24) ||| (hi <<< 8) ||| lo
  | .encHdr tt bc dir node obj =>
    (0x20 <<< 24) ||| (tt <<< 22) ||| (bc <<< 21) ||| (dir <<< 20) ||| (node <<< 8) ||| obj
  | .encPush b => (0x21 <<< 24) ||| b
  | .encEnd => 0x22 <<< 24
  | .decClr => 0x30 <<< 24
  | .decPush b => (0x31 <<< 24) ||| b
  | .decEnd => 0x32 <<< 24
  | .qLdv imm => (0x40 <<< 24) ||| imm
  | .qLdn imm => (0x41 <<< 24) ||| imm
  | .qToreg => 0x42 <<< 24
  | .qFrom16 hi lo => (0x43 <<< 24) ||| (hi <<< 8) ||| lo
  | .qFrom8 hi => (0x44 <<< 24) ||| hi
  | .stClr => 0xF0 <<< 24

/-! ### Text to written commands -/

namespace Asm

/-- A blank between tokens (DESIGN CHOICE, log entry 10). -/
def isBlank (c : Char) : Bool := c == ' ' || c == '\t' || c == '\r'

/-- The text without blanks at either end. -/
def trim (t : List Char) : List Char := ((t.dropWhile isBlank).reverse.dropWhile isBlank).reverse

/-- The pieces of a text between separators. -/
def splitAt (sep : Char) : List Char → List (List Char)
  | [] => [[]]
  | c :: rest =>
    if c == sep then [] :: splitAt sep rest
    else
      match splitAt sep rest with
      | [] => [[c]]
      | piece :: more => (c :: piece) :: more

/-- The value of a digit, hexadecimal ones included. -/
def digit (c : Char) : Option Nat :=
  if '0' ≤ c ∧ c ≤ '9' then some (c.toNat - '0'.toNat)
  else if 'a' ≤ c ∧ c ≤ 'f' then some (c.toNat - 'a'.toNat + 10)
  else if 'A' ≤ c ∧ c ≤ 'F' then some (c.toNat - 'A'.toNat + 10)
  else none

/-- Digits of one base after the number read so far. -/
def digits (base acc : Nat) : List Char → Option Nat
  | [] => some acc
  | c :: rest =>
    match digit c with
    | some d => if d < base then digits base (acc * base + d) rest else none
    | none => none

/-- A number "in decimal or `0x` hex" (rule R67). -/
def number : List Char → Option Nat
  | '0' :: 'x' :: c :: rest => digits 16 0 (c :: rest)
  | c :: rest => digits 10 0 (c :: rest)
  | [] => none

/-- Every operand's number, or none if one is no number. -/
def numbers : List (List Char) → Option (List Nat)
  | [] => some []
  | t :: rest =>
    match number (trim t), numbers rest with
    | some n, some ns => some (n :: ns)
    | _, _ => none

/-- The operands after the mnemonic: none, or numbers separated by commas (rule R67). -/
def operands (t : List Char) : Option (List Nat) := if t.isEmpty then some [] else numbers (splitAt ',' t)

/-- A form of no operand. -/
def form0 (l : AsmLine) : List Nat → Option AsmLine
  | [] => some l
  | _ => none

/-- A form of one operand. -/
def form1 (mk : Nat → AsmLine) : List Nat → Option AsmLine
  | [a] => some (mk a)
  | _ => none

/-- A form of two operands. -/
def form2 (mk : Nat → Nat → AsmLine) : List Nat → Option AsmLine
  | [a, b] => some (mk a b)
  | _ => none

/-- A form of five operands. -/
def form5 (mk : Nat → Nat → Nat → Nat → Nat → AsmLine) : List Nat → Option AsmLine
  | [a, b, c, d, e] => some (mk a b c d e)
  | _ => none

/-- The forms of rule R67's table, the fifteen commands. DESIGN CHOICE (log entry 10): a line that holds a pseudo-instruction
of rule R68 is refused, because R68 does not say that the assembler's text takes one; `Pseudo.expand` has the expansions. -/
def forms : List (String × (List Nat → Option AsmLine)) :=
  [("CS_CLR", form0 .csClr), ("CS_ADD", form1 .csAdd), ("CS_CHK", form2 .csChk),
   ("ENC_HDR", form5 .encHdr), ("ENC_PUSH", form1 .encPush), ("ENC_END", form0 .encEnd)] ++
  [("DEC_CLR", form0 .decClr), ("DEC_PUSH", form1 .decPush), ("DEC_END", form0 .decEnd),
   ("Q_LDV", form1 .qLdv), ("Q_LDN", form1 .qLdn), ("Q_TOREG", form0 .qToreg)] ++
  [("Q_FROM16", form2 .qFrom16), ("Q_FROM8", form1 .qFrom8), ("ST_CLR", form0 .stClr)]

/-- The written command of a mnemonic and its operands. -/
def lineOf (m : List Char) (ops : List Nat) : Option AsmLine :=
  match forms.find? (fun f => f.1.toList == m) with
  | some f => f.2 ops
  | none => none

/-- What one line of text says. -/
inductive Parsed where
  /-- Only blanks or a comment. -/
  | blank
  /-- One command. -/
  | line (l : AsmLine)
  /-- No form of rule R67. -/
  | refused
deriving DecidableEq, Repr

/-- One line of text (rule R67): "`;` starting a comment". -/
def parseLine (t : List Char) : Parsed :=
  let body := trim (t.takeWhile (· != ';'))
  if body.isEmpty then .blank
  else
    match operands (trim (body.dropWhile fun c => !isBlank c)) with
    | none => .refused
    | some ops =>
      match lineOf (body.takeWhile fun c => !isBlank c) ops with
      | some l => .line l
      | none => .refused

/-- The words of a list of lines; one refused line refuses the whole. -/
def assembleLines : List (List Char) → Option (List Word)
  | [] => some []
  | t :: rest =>
    match parseLine t, assembleLines rest with
    | .blank, some ws => some ws
    | .line l, some ws => l.assemble.map (· :: ws)
    | _, _ => none

/-- The words of a text, "one command per line" (rule R67). -/
def assembleText (text : String) : Option (List Word) := assembleLines (splitAt '\n' text.toList)

end Asm

end Sys2Proof
end

