-- ==== Sys2Proof/Machine/Pseudo.lean ====
section
/-! DEFINITION. The pseudo-instructions of 30_encoding.md rule R68, "each an exact expansion into the commands".
They are data; the assembler's text does not take them (DESIGN CHOICE, log entry 10). -/

namespace Sys2Proof.Machine

/-- The seven pseudo-instructions (rule R68). -/
inductive Pseudo where
  | encode (tt : BitVec 2) (bc dir : BitVec 1) (node obj : Byte) (p : List Byte)
  | decode (r : List Byte)
  | checksum (c : List Byte)
  | verify (c : List Byte) (hi lo : Byte)
  | toreg (v n : BitVec 24)
  | fromreg (n : BitVec 24) (hi lo : Byte)
  | fromregHi (n : BitVec 24) (hi : Byte)
deriving DecidableEq, Repr

/-- The expansion of each (rule R68's table). -/
def Pseudo.expand : Pseudo → List Instr
  | .encode tt bc dir node obj p => .encHdr tt bc dir node obj :: p.map .encPush ++ [.encEnd]
  | .decode r => .decClr :: r.map .decPush ++ [.decEnd]
  | .checksum c => .csClr :: c.map .csAdd
  | .verify c hi lo => (.csClr :: c.map .csAdd) ++ [.csChk hi lo]
  | .toreg v n => [.qLdv v, .qLdn n, .qToreg]
  | .fromreg n hi lo => [.qLdn n, .qFrom16 hi lo]
  | .fromregHi n hi => [.qLdn n, .qFrom8 hi]

/-- The host issues a pseudo-instruction's expansion. -/
def Pseudo.issue (p : Pseudo) (s : State) : Host.Outcome State Fault Refusal := Sys2Proof.Machine.issue p.expand s

end Sys2Proof.Machine
end

