-- ==== Sys2Proof/Machine/Telegram.lean ====
section
/-! DEFINITION. The source's pure functions on whole byte sequences (41_codec.md rules R70, R75), against which the
commands are judged, and what the block's buffers mean in terms of the bytes pushed (10_state.md rules R23, R34). -/

namespace Sys2Proof.Machine

/-- The source's Encode (rule R70): the telegram of a payload of 1 to 16 bytes; none is EncodeLengthError. -/
def encodeTelegram (tt : BitVec 2) (bc dir : BitVec 1) (node obj : Byte) (p : List Byte) : Option (List Byte) :=
  if p.length = 0 ∨ Config.maxPayload < p.length then none
  else some (sealTelegram (delim tt bc dir p.length :: node :: obj :: p))

/-- What the source's Decode returns (rule R75). -/
inductive DecodeResult where
  /-- OK(delim, node, obj, payload). -/
  | ok (delim node obj : Byte) (payload : List Byte)
  /-- `DecodeError::ChecksumMismatch`. -/
  | checksumMismatch
  /-- `DecodeError::LengthMismatch`. -/
  | lengthMismatch
deriving DecidableEq, Repr

/-- DEC_STAT's code for a result of Decode (rules R18, R80). -/
def DecodeResult.stat : DecodeResult → DecStat
  | .ok _ _ _ _ => .ok
  | .checksumMismatch => .checksumMismatch
  | .lengthMismatch => .lengthMismatch

/-- The source's Decode (rule R75): too short, then the checksum, then the declared length. -/
def decodeTelegram (raw : List Byte) : DecodeResult :=
  let n := raw.length
  if n < 2 then .lengthMismatch
  else if (csum16 (raw.take (n - 2))).toNat ≠ (raw.getD (n - 2) 0).toNat * 256 + (raw.getD (n - 1) 0).toNat then
    .checksumMismatch
  else
    let payload := (raw.take (n - 2)).drop 3
    if payload.length ≠ declaredLength (raw.getD 0 0) then .lengthMismatch
    else .ok (raw.getD 0 0) (raw.getD 1 0) (raw.getD 2 0) payload

/-- The stream state after the bytes `bs` were pushed on an empty stream (10_state.md rule R34). -/
def streamOf (bs : List Byte) : RxStream where
  n := .ofNat 8 (min bs.length Config.rxCountMax)
  sum := csum16 (bs.take (bs.length - 2))
  w1 := if 2 ≤ bs.length then bs.getD (bs.length - 2) 0 else 0
  w0 := if 1 ≤ bs.length then bs.getD (bs.length - 1) 0 else 0
  raw := padTo 21 bs

/-- The payload state after the bytes `bs` were pushed on an empty payload (rules R23, R72): the first sixteen are
held, and a longer sequence marks the overflow. -/
def payloadOf (bs : List Byte) : TxPayload where
  pay := padTo 16 bs
  cnt := .ofNat 5 (min bs.length Config.maxPayload)
  ovf := decide (Config.maxPayload < bs.length)

/-- The telegram a host reads from TX_BUF: `TX_BUF[0 .. TX_LEN-1]` (41_codec.md rules R73, R81). -/
def TxFrame.telegram (f : TxFrame) : List Byte := f.buf.toList.take f.len.toNat

/-- The payload a host reads from RX_PAY: `RX_PAY[0 .. RX_PLEN-1]` (rule R27). -/
def RxFrame.payload (f : RxFrame) : List Byte := f.pay.toList.take f.plen.toNat

/-- `bs` with bit `j` of byte `i` inverted (41_codec.md rule R82). -/
def flipBit (bs : List Byte) (i j : Nat) : List Byte := bs.modify i fun b => b ^^^ BitVec.twoPow 8 j

end Sys2Proof.Machine
end

