-- ==== Sys2Proof/Safety.lean ====
section
/-! DEFINITION. The terms claims are stated in: the state elements by name, the write set of each command (10_state.md
rule R31), the units (rule R127), and the invariant of every run (rule R33). -/

namespace Sys2Proof.Machine

/-! ### The state elements by name -/

/-- The units of the block (30_encoding.md rule R63's last column). -/
inductive Part where
  | checksum
  | encoder
  | decoder
  | quantizer
  | status
deriving DecidableEq, Repr

/-- Every state element of 10_state.md (rule R32 lists them all). -/
inductive Elem where
  | encStat | decStat | qStat | csMatch | ill
  | csum
  | txTt | txBc | txDir | txNode | txObj | txPay | txCnt | txOvf | txBuf | txLen
  | rxN | rxSum | rxW1 | rxW0 | rxRaw | rxDelim | rxNode | rxObj | rxPlen | rxPay
  | qv | qn | qreg | qpInt | qpFrac
deriving DecidableEq, Repr

/-- The numbers an element holds: one for a register, one a byte for a buffer. -/
def Elem.value (e : Elem) (s : State) : List Nat :=
  match e with
  | .encStat => [s.status.enc.code.toNat]
  | .decStat => [s.status.dec.code.toNat]
  | .qStat => [s.status.q.code.toNat]
  | .csMatch => [s.status.csMatch.toNat]
  | .ill => [s.status.ill.toNat]
  | .csum => [s.csum.toNat]
  | .txTt => [s.txHdr.tt.toNat]
  | .txBc => [s.txHdr.bc.toNat]
  | .txDir => [s.txHdr.dir.toNat]
  | .txNode => [s.txHdr.node.toNat]
  | .txObj => [s.txHdr.obj.toNat]
  | .txPay => s.txPay.pay.toList.map BitVec.toNat
  | .txCnt => [s.txPay.cnt.toNat]
  | .txOvf => [s.txPay.ovf.toNat]
  | .txBuf => s.txOut.buf.toList.map BitVec.toNat
  | .txLen => [s.txOut.len.toNat]
  | .rxN => [s.rx.n.toNat]
  | .rxSum => [s.rx.sum.toNat]
  | .rxW1 => [s.rx.w1.toNat]
  | .rxW0 => [s.rx.w0.toNat]
  | .rxRaw => s.rx.raw.toList.map BitVec.toNat
  | .rxDelim => [s.rxOut.delim.toNat]
  | .rxNode => [s.rxOut.node.toNat]
  | .rxObj => [s.rxOut.obj.toNat]
  | .rxPlen => [s.rxOut.plen.toNat]
  | .rxPay => s.rxOut.pay.toList.map BitVec.toNat
  | .qv => [s.quant.qv.toNat]
  | .qn => [s.quant.qn.toNat]
  | .qreg => [s.quant.qreg.toNat]
  | .qpInt => [s.quant.qpInt.toNat]
  | .qpFrac => [s.quant.qpFrac.toNat]

/-- The unit that owns an element (rules R31, R127); each `*_STAT` code and CS_MATCH is the verdict of its own unit (rule
R106), and ILL belongs to the command port. -/
def Elem.part : Elem → Part
  | .encStat => .encoder
  | .decStat => .decoder
  | .qStat => .quantizer
  | .csMatch => .checksum
  | .ill => .status
  | .csum => .checksum
  | .txTt => .encoder
  | .txBc => .encoder
  | .txDir => .encoder
  | .txNode => .encoder
  | .txObj => .encoder
  | .txPay => .encoder
  | .txCnt => .encoder
  | .txOvf => .encoder
  | .txBuf => .encoder
  | .txLen => .encoder
  | .rxN => .decoder
  | .rxSum => .decoder
  | .rxW1 => .decoder
  | .rxW0 => .decoder
  | .rxRaw => .decoder
  | .rxDelim => .decoder
  | .rxNode => .decoder
  | .rxObj => .decoder
  | .rxPlen => .decoder
  | .rxPay => .decoder
  | .qv => .quantizer
  | .qn => .quantizer
  | .qreg => .quantizer
  | .qpInt => .quantizer
  | .qpFrac => .quantizer

/-- The unit a command belongs to (rule R63's last column). -/
def instrPart : Instr → Part
  | .csClr => .checksum
  | .csAdd _ => .checksum
  | .csChk _ _ => .checksum
  | .encHdr _ _ _ _ _ => .encoder
  | .encPush _ => .encoder
  | .encEnd => .encoder
  | .decClr => .decoder
  | .decPush _ => .decoder
  | .decEnd => .decoder
  | .qLdv _ => .quantizer
  | .qLdn _ => .quantizer
  | .qToreg => .quantizer
  | .qFrom16 _ _ => .quantizer
  | .qFrom8 _ => .quantizer
  | .stClr => .status

/-- The decoder's stream elements. -/
def streamElems : List Elem := [.rxN, .rxSum, .rxW1, .rxW0, .rxRaw]

/-- "The complete write set of each command" (rule R31); `after` is STATUS after the command, which says whether a
DEC_END or a Q_TOREG succeeded ("and on OK also"). -/
def writeSet (i : Instr) (after : Status) : List Elem :=
  match i with
  | .csClr => [.csum, .csMatch]
  | .csAdd _ => [.csum]
  | .csChk _ _ => [.csMatch]
  | .encHdr _ _ _ _ _ => [.txTt, .txBc, .txDir, .txNode, .txObj, .txPay, .txCnt, .txOvf]
  | .encPush _ => [.txPay, .txCnt, .txOvf]
  | .encEnd => [.txBuf, .txLen, .encStat]
  | .decClr => streamElems
  | .decPush _ => streamElems
  | .decEnd => streamElems ++ [.decStat] ++ if after.dec = .ok then [.rxDelim, .rxNode, .rxObj, .rxPlen, .rxPay] else []
  | .qLdv _ => [.qv]
  | .qLdn _ => [.qn]
  | .qToreg => [.qStat] ++ if after.q = .ok then [.qreg] else []
  | .qFrom16 _ _ => [.qpInt, .qpFrac, .qStat]
  | .qFrom8 _ => [.qpInt, .qpFrac, .qStat]
  | .stClr => [.encStat, .decStat, .qStat, .csMatch, .ill]

/-- Nothing outside `es` changed from `s` to `t`; the host's own fields are as before too. -/
def OnlyWrites (es : List Elem) (s t : State) : Prop :=
  (∀ e, e ∉ es → e.value t = e.value s) ∧ t.port = s.port ∧ t.reads = s.reads

/-! ### The invariant of every run -/

/-- What holds from reset and after every step (10_state.md rules R23, R24, R25, R26, R27, R30, R33, R34). R33's clause
"TX_LEN = 0 if ENC_STAT is not OK" is not among them: ST_CLR keeps TX_LEN (44_status.md rule R103); it is here in the form
that survives ST_CLR (log entry 6). -/
structure Inv (s : State) : Prop where
  /-- The payload state is that of some sequence of pushed bytes (rules R23, R72). -/
  txPay : ∃ bs, s.txPay = payloadOf bs
  /-- "`TX_LEN = 0` or `6 <= TX_LEN <= 21`" (rule R24). -/
  txLen : s.txOut.len.toNat = 0 ∨ 6 ≤ s.txOut.len.toNat ∧ s.txOut.len.toNat ≤ 21
  /-- "every TX_BUF byte at an index `>= TX_LEN` is 0" (rule R24). -/
  txTail : ∀ k, s.txOut.len.toNat ≤ k → byteAt s.txOut.buf k = 0
  /-- A telegram held is one the decoder accepts (rules R73, R81). -/
  txValid : s.txOut.len.toNat ≠ 0 → (decodeTelegram s.txOut.telegram).stat = .ok
  /-- No telegram after LENGTH_ERROR (rules R33, R73). -/
  encError : s.status.enc = .lengthError → s.txOut.len.toNat = 0
  /-- A telegram after OK (rule R73). -/
  encOk : s.status.enc = .ok → s.txOut.len.toNat ≠ 0
  /-- The stream state is that of some sequence of pushed bytes (rules R25, R26, R34). -/
  rxStream : ∃ bs, s.rx = streamOf bs
  /-- "`RX_PLEN = 0` or `1 <= RX_PLEN <= 16`" (rule R33). -/
  rxPlen : s.rxOut.plen.toNat ≤ 16
  /-- "RX_PAY bytes at indices `>= RX_PLEN` are 0" (rule R33). -/
  rxTail : ∀ k, s.rxOut.plen.toNat ≤ k → byteAt s.rxOut.pay k = 0
  /-- A decoded telegram's length is the one its delimiter declares (rules R46, R79). -/
  rxDeclared : s.rxOut.plen.toNat ≠ 0 → s.rxOut.plen.toNat = declaredLength s.rxOut.delim
  /-- A telegram was decoded when DEC_STAT says so (rules R18, R27). -/
  rxOk : s.status.dec = .ok → s.rxOut.plen.toNat ≠ 0
  /-- "`QREG <= 25600`" (rule R33). -/
  qreg : s.quant.qreg.toNat ≤ 25600
  /-- "`QP_FRAC < 25600`" (rule R33). -/
  qpFrac : s.quant.qpFrac.toNat < 25600

end Sys2Proof.Machine
end

