-- ==== Sys2Proof/Certificates/Slice0/Obligations.lean ====
section
/-! DEFINITION. What is claimed of the block: statements only, each a numbered rule of spec/ or a consequence of the rules
it names. The frame of a command is written `t = { s with … }`: every element not named in it is as before. -/

open Sys2Proof Sys2Proof.Machine

/-! ### Encoding (30_encoding.md) -/

/-- Rules R57 to R64: decoding the word of a command gives the command back, every operand at every value. -/
def Obligations.DecodeOfEncodeIsTheCommand : Prop :=
  ∀ i : Instr, i.wellFormed = true ∧ decode (encode i) = .ok i

/-- Rules R57 to R64: a legal word is the word of the command it decodes to, so no bit of it is dropped. -/
def Obligations.EncodeOfDecodeIsTheWord : Prop :=
  ∀ (w : Word) (i : Instr), decode w = .ok i → encode i = w

/-- Rule R64: a word is the command of the one row of the opcode map that selects it, with its operands taken by rule R62;
otherwise it is illegal, because its opcode is not in the map or because a reserved bit of its format is 1. -/
def Obligations.DecodeFollowsTheOpcodeMap : Prop :=
  (∀ (w : Word) (i : Instr), decode w = .ok i ↔ decodeByTable w = some i) ∧
  (∀ w : Word, decode w = .error .reservedOpcode ↔ ∀ r ∈ opcodeTable, opcodeOf w ≠ opcodeOf r.mtch) ∧
  (∀ w : Word, decode w = .error .reservedBits ↔
    ∃ r ∈ opcodeTable, opcodeOf w = opcodeOf r.mtch ∧ w &&& r.mask ≠ r.mtch)

/-- Rule R63: "No two rows match the same word". -/
def Obligations.OpcodeRowsNeverOverlap : Prop :=
  ∀ w : Word, opcodeTable.Pairwise fun r r' => ¬ (w &&& r.mask = r.mtch ∧ w &&& r'.mask = r'.mtch)

/-- Words of 95_test_vectors.md and of the rules' examples, written out, and the commands they are. -/
def Obligations.WordsOfTheSpecDecode : Prop :=
  decode 0x10000000#32 = .ok .csClr ∧ decode 0x110000FF#32 = .ok (.csAdd 255) ∧
  decode 0x12006500#32 = .ok (.csChk 0x65 0x00) ∧ decode 0x20900133#32 = .ok (.encHdr 2 0 1 1 51) ∧
  decode 0x21000032#32 = .ok (.encPush 0x32) ∧ decode 0x22000000#32 = .ok .encEnd ∧
  decode 0x31000065#32 = .ok (.decPush 0x65) ∧ decode 0x4100A410#32 = .ok (.qLdn 42000) ∧
  decode 0x43003200#32 = .ok (.qFrom16 0x32 0x00) ∧ decode 0x44000033#32 = .ok (.qFrom8 0x33) ∧
  decode 0xF0000000#32 = .ok .stClr ∧ decode 0x20010032#32 = .error .reservedBits ∧
  decode 0x00000000#32 = .error .reservedOpcode

/-- The encoding part of a command's rule: the words of the row with this match and mask are exactly the words that decode
to the command of this mnemonic. -/
def HasEncoding (mnemonic : String) (mtch mask : Word) : Prop :=
  ∀ w : Word, w &&& mask = mtch ↔ ∃ i, decode w = .ok i ∧ i.mnemonic = mnemonic

/-- Rule R67 (all but its text): a written command whose operands fit assembles to the word the table's arithmetic gives,
which is that command; one with an operand that does not fit is refused. -/
def Obligations.AssemblerNeverTruncates : Prop :=
  ∀ l : AsmLine,
    (l.wellFormed = true → ∃ w, l.assemble = some w ∧ w.toNat = l.wordNumber ∧ ∃ i, decode w = .ok i ∧ i.toAsm = l) ∧
    (l.wellFormed = false → l.assemble = none)

/-! ### The interfaces (00_scope.md, 20_memory.md, 70_reset_and_hazards.md)

The fields `port` and `reads` are the model's own form of the host's side (log entry 1). -/

/-- Rule R56: the port decodes the word and executes the one command it selects, or treats it as illegal. A step does this
with the word the host presents next, and a word placed for the next step is that word. -/
def Obligations.StepRunsTheDecodedCommand : Prop :=
  (∀ (s : State) (w : Word) (rest : List HostAction) (i : Instr),
    s.port = .command w :: rest → decode w = .ok i → step s = exec i { s with port := rest }) ∧
  (∀ (s : State) (w : Word) (i : Instr), decode w = .ok i → step (s.withFetchWord 32 w.toNat) = exec i s) ∧
  (∀ (s : State) (w : Word) (rest : List HostAction) (e : IllegalWord),
    s.port = .command w :: rest → decode w = .error e →
    step s = .next { s with port := rest, status := { s.status with ill := true } })

/-- Rules R43, R44: a read gives the host one value of the register map and changes no element of the block. -/
def Obligations.ReadActionHasNoSideEffect : Prop :=
  ∀ (s : State) (a : Addr) (rest : List HostAction), s.port = .read a :: rest →
    ∃ t, step s = .next t ∧ t.reads = s.reads ++ [hostRead s a] ∧ t.port = rest ∧
      (∀ e : Elem, e.value t = e.value s) ∧ ∀ b, hostRead t b = hostRead s b

/-- Rule R32: after reset every state element holds 0; no element is left unspecified. -/
def Obligations.ResetZeroesEveryElement : Prop :=
  ∀ (s : State) (e : Elem), (∀ v ∈ e.value State.reset, v = 0) ∧
    ∃ t, performAction .reset s = .next t ∧ e.value t ≠ [] ∧ ∀ v ∈ e.value t, v = 0

/-- Rules R121, R123: with nothing presented the block waits and holds its state (log entry 2); a reset action is a step
of its own that leaves the host's side as it was (log entry 5). -/
def Obligations.IdleHoldsAndResetIsAStep : Prop :=
  (∀ s : State, s.port = [] → step s = .next s) ∧
  (∀ (s : State) (rest : List HostAction), s.port = .reset :: rest →
    step s = .next { State.reset with port := rest, reads := s.reads })

/-- Rule R129: every command word, legal or not, and every read completes; no state refuses a host action and no step
hangs. -/
def Obligations.EveryHostActionCompletes : Prop :=
  (∀ (a : HostAction) (s : State), ∃ t, performAction a s = .next t) ∧
  (∀ (w : Word) (s : State), ∃ t, acceptWord w s = .next t) ∧
  ∀ s : State, ∃ t, step s = .next t

/-- Rules R49, R132 (over log entry 1): running the machine for as many steps as there are actions performs them one at a
time, in the order the host issues them, whatever it issues later. -/
def Obligations.RunPerformsActionsInOrder : Prop :=
  ∀ (acts later : List HostAction) (s : State),
    Host.Core.run Sys2Proof.core acts.length (s.setPort (acts ++ later)) = performAll acts (s.setPort later)

/-- Rule R45 and R47: the register map, each word as the number its fields make, every other bit 0; an address with no
entry reads 0. -/
def Obligations.ReadPortFollowsTheRegisterMap : Prop :=
  ∀ s : State,
    (hostRead s 0x00).toNat = s.status.enc.code.toNat + 4 * s.status.dec.code.toNat + 16 * s.status.q.code.toNat
      + 64 * s.status.csMatch.toNat + 128 * s.status.ill.toNat ∧
    (hostRead s 0x01).toNat = s.csum.toNat ∧
    (hostRead s 0x02).toNat = s.txPay.cnt.toNat + 32 * s.txPay.ovf.toNat + 256 * s.txOut.len.toNat ∧
    (hostRead s 0x03).toNat = s.txHdr.obj.toNat + 2 ^ 8 * s.txHdr.node.toNat + 2 ^ 20 * s.txHdr.dir.toNat
      + 2 ^ 21 * s.txHdr.bc.toNat + 2 ^ 22 * s.txHdr.tt.toNat ∧
    (hostRead s 0x04).toNat = s.rx.w0.toNat + 2 ^ 8 * s.rx.w1.toNat + 2 ^ 16 * s.rx.n.toNat ∧
    (hostRead s 0x05).toNat = s.rx.sum.toNat ∧
    (hostRead s 0x06).toNat = s.rxOut.obj.toNat + 2 ^ 8 * s.rxOut.node.toNat + 2 ^ 16 * s.rxOut.delim.toNat
      + 2 ^ 24 * s.rxOut.plen.toNat ∧
    (hostRead s 0x07).toNat = s.quant.qv.toNat ∧ (hostRead s 0x08).toNat = s.quant.qn.toNat ∧
    (hostRead s 0x09).toNat = s.quant.qreg.toNat ∧ (hostRead s 0x0A).toNat = s.quant.qpInt.toNat ∧
    (hostRead s 0x0B).toNat = s.quant.qpFrac.toNat ∧
    (hostRead s 0x0C).toNat = (s.rxOut.delim.toNat % 16 + 1) + 2 ^ 8 * (s.rxOut.delim.toNat / 16 % 2)
      + 2 ^ 9 * (s.rxOut.delim.toNat / 32 % 2) + 2 ^ 10 * (s.rxOut.delim.toNat / 64) ∧
    (∀ k (h : k < 21), (hostRead s (.ofNat 8 (0x20 + k))).toNat = (s.txOut.buf[k]'h).toNat) ∧
    (∀ k (h : k < 16), (hostRead s (.ofNat 8 (0x40 + k))).toNat = (s.txPay.pay[k]'h).toNat) ∧
    (∀ k (h : k < 21), (hostRead s (.ofNat 8 (0x50 + k))).toNat = (s.rx.raw[k]'h).toNat) ∧
    (∀ k (h : k < 16), (hostRead s (.ofNat 8 (0x70 + k))).toNat = (s.rxOut.pay[k]'h).toNat) ∧
    ∀ a : Addr, (0x0D ≤ a.toNat ∧ a.toNat ≤ 0x1F ∨ 0x35 ≤ a.toNat ∧ a.toNat ≤ 0x3F ∨
      0x65 ≤ a.toNat ∧ a.toNat ≤ 0x6F ∨ 0x80 ≤ a.toNat) → hostRead s a = 0

/-- Rule R120: "the read port exposes every state element", and by rules R10, R44 nothing but them: two states read alike at
every address exactly when every element is alike. -/
def Obligations.ReadPortExposesEveryElement : Prop :=
  ∀ s t : State, (∀ a : Addr, hostRead s a = hostRead t a) ↔ ∀ e : Elem, e.value s = e.value t

/-! ### Checksum unit (42_checksum.md) -/

/-- Rule R87: CS_CLR. -/
def Obligations.CsClrClearsSumAndMatch : Prop :=
  HasEncoding "CS_CLR" 0x10000000 0xFFFFFFFF ∧
  ∀ s : State, exec .csClr s = .next { s with csum := 0, status := { s.status with csMatch := false } }

/-- Rule R88: CS_ADD. -/
def Obligations.CsAddAddsModulo65536 : Prop :=
  HasEncoding "CS_ADD" 0x11000000 0xFFFFFF00 ∧
  ∀ (b : Byte) (s : State), ∃ t, exec (.csAdd b) s = .next t ∧
    t.csum.toNat = (s.csum.toNat + b.toNat) % 65536 ∧ t = { s with csum := t.csum }

/-- Rule R89: CS_CHK. -/
def Obligations.CsChkComparesHighByteFirst : Prop :=
  HasEncoding "CS_CHK" 0x12000000 0xFFFF0000 ∧
  ∀ (hi lo : Byte) (s : State), ∃ t, exec (.csChk hi lo) s = .next t ∧
    (t.status.csMatch = true ↔ s.csum.toNat = hi.toNat * 256 + lo.toNat) ∧
    t = { s with status := { s.status with csMatch := t.status.csMatch } }

/-- Rule R86: what follows from the checksum's definition. -/
def Obligations.ChecksumDependsOnTheSumAlone : Prop :=
  (∀ a b : List Byte, (csum16 (a ++ b)).toNat = ((csum16 a).toNat + (csum16 b).toNat) % 65536) ∧
  (∀ a b : List Byte, a.Perm b → csum16 a = csum16 b) ∧
  (∀ (a b : List Byte) (c d e f : Byte), c.toNat + d.toNat = e.toNat + f.toNat →
    csum16 (a ++ c :: (b ++ [d])) = csum16 (a ++ e :: (b ++ [f]))) ∧
  (∀ a b : List Byte, csum16 (a ++ 0 :: b) = csum16 (a ++ b)) ∧
  csum16 (List.replicate 257 0xFF) = 0xFFFF ∧ csum16 (List.replicate 258 0xFF) = 0x00FE

/-- Rules R21, R68, R90: the sequence CHECKSUM leaves CSUM at the sum of the bytes modulo 65536, high byte readable in bits
[15:8] and low byte in [7:0], and touches nothing else but CS_MATCH. -/
def Obligations.ChecksumSequenceSumsTheBytes : Prop :=
  ∀ (c : List Byte) (s : State), ∃ t, (Pseudo.checksum c).issue s = .next t ∧
    t.csum.toNat = (c.map BitVec.toNat).sum % 65536 ∧
    t = { s with csum := t.csum, status := { s.status with csMatch := false } }

/-- Rule R90, its last sentence: VERIFY matches exactly when the decoder does not report a checksum mismatch. -/
def Obligations.VerifyAgreesWithDecEnd : Prop :=
  ∀ (body : List Byte) (hi lo : Byte) (s u : State), ∃ t v,
    (Pseudo.verify body hi lo).issue s = .next t ∧ (Pseudo.decode (body ++ [hi, lo])).issue u = .next v ∧
    (t.status.csMatch = true ↔ v.status.dec ≠ .checksumMismatch)

/-! ### Encoder (41_codec.md) -/

/-- Rule R69: the start delimiter's value and bits for a payload of 1 to 16 bytes. -/
def Obligations.StartDelimiterLayout : Prop :=
  ∀ (tt : BitVec 2) (bc dir : BitVec 1) (k : Nat), 1 ≤ k → k ≤ 16 →
    (delim tt bc dir k).toNat = tt.toNat * 64 + bc.toNat * 32 + dir.toNat * 16 + (k - 1) ∧
    (delim tt bc dir k).extractLsb' 6 2 = tt ∧ (delim tt bc dir k).extractLsb' 5 1 = bc ∧
    (delim tt bc dir k).extractLsb' 4 1 = dir ∧ declaredLength (delim tt bc dir k) = k

/-- Rule R71: ENC_HDR. -/
def Obligations.EncHdrStartsATelegram : Prop :=
  HasEncoding "ENC_HDR" 0x20000000 0xFF0F0000 ∧
  ∀ (tt : BitVec 2) (bc dir : BitVec 1) (node obj : Byte) (s : State), ∃ t,
    exec (.encHdr tt bc dir node obj) s = .next t ∧
    t.txHdr = ⟨tt, bc, dir, node, obj⟩ ∧ (∀ k (h : k < 16), t.txPay.pay[k]'h = 0) ∧
    t.txPay.cnt = 0 ∧ t.txPay.ovf = false ∧ t = { s with txHdr := t.txHdr, txPay := t.txPay }

/-- Rule R72: ENC_PUSH, below and at sixteen bytes held. -/
def Obligations.EncPushAppendsOrOverflows : Prop :=
  HasEncoding "ENC_PUSH" 0x21000000 0xFFFFFF00 ∧
  ∀ (b : Byte) (s : State), ∃ t, exec (.encPush b) s = .next t ∧ t = { s with txPay := t.txPay } ∧
    (s.txPay.cnt.toNat < 16 →
      t.txPay.cnt.toNat = s.txPay.cnt.toNat + 1 ∧ t.txPay.ovf = s.txPay.ovf ∧
      ∀ k (h : k < 16), t.txPay.pay[k]'h = if k = s.txPay.cnt.toNat then b else s.txPay.pay[k]'h) ∧
    (16 ≤ s.txPay.cnt.toNat → t.txPay = { s.txPay with ovf := true })

/-- Rule R73: ENC_END. The success case has as its premise the part of rule R23's invariant that bounds TX_CNT. -/
def Obligations.EncEndBuildsTheTelegram : Prop :=
  HasEncoding "ENC_END" 0x22000000 0xFFFFFFFF ∧
  ∀ s : State, ∃ t, exec .encEnd s = .next t ∧
    t = { s with txOut := t.txOut, status := { s.status with enc := t.status.enc } } ∧
    (s.txPay.ovf = true ∨ s.txPay.cnt = 0 →
      t.status.enc = .lengthError ∧ t.txOut.len = 0 ∧ ∀ k (h : k < 21), t.txOut.buf[k]'h = 0) ∧
    (s.txPay.ovf = false → s.txPay.cnt ≠ 0 → s.txPay.cnt.toNat ≤ 16 →
      let k := s.txPay.cnt.toNat
      let sum := (delim s.txHdr.tt s.txHdr.bc s.txHdr.dir k).toNat + s.txHdr.node.toNat + s.txHdr.obj.toNat
        + ((s.txPay.pay.toList.take k).map BitVec.toNat).sum
      t.status.enc = .ok ∧ t.txOut.len.toNat = k + 5 ∧
      byteAt t.txOut.buf 0 = delim s.txHdr.tt s.txHdr.bc s.txHdr.dir k ∧
      byteAt t.txOut.buf 1 = s.txHdr.node ∧ byteAt t.txOut.buf 2 = s.txHdr.obj ∧
      (∀ j, j < k → byteAt t.txOut.buf (3 + j) = byteAt s.txPay.pay j) ∧
      (byteAt t.txOut.buf (k + 3)).toNat = sum % 65536 / 256 ∧
      (byteAt t.txOut.buf (k + 4)).toNat = sum % 256 ∧
      ∀ j, k + 5 ≤ j → byteAt t.txOut.buf j = 0)

/-- Rule R74: the sequence ENCODE computes the source's Encode, and fails exactly when it does. -/
def Obligations.EncodeSequenceIsEncode : Prop :=
  ∀ (tt : BitVec 2) (bc dir : BitVec 1) (node obj : Byte) (p : List Byte) (s : State), ∃ t,
    (Pseudo.encode tt bc dir node obj p).issue s = .next t ∧
    (1 ≤ p.length → p.length ≤ 16 → t.status.enc = .ok ∧ t.txOut.len.toNat = p.length + 5 ∧
      encodeTelegram tt bc dir node obj p = some t.txOut.telegram) ∧
    (encodeTelegram tt bc dir node obj p = none ↔ t.status.enc = .lengthError ∧ t.txOut.len = 0)

/-- Rules R12, R84: the checksum of a telegram that ENC_END can build or DEC_END accept never wraps. -/
def Obligations.TelegramChecksumNeverWraps : Prop :=
  (∀ (tt : BitVec 2) (bc dir : BitVec 1) (node obj : Byte) (p t : List Byte),
    encodeTelegram tt bc dir node obj p = some t →
    ((t.take (p.length + 3)).map BitVec.toNat).sum ≤ 4845 ∧ (t.getD (p.length + 3) 0).toNat ≤ 0x12) ∧
  ∀ (raw : List Byte) (delim node obj : Byte) (p : List Byte), decodeTelegram raw = .ok delim node obj p →
    ((raw.take (raw.length - 2)).map BitVec.toNat).sum ≤ 4845 ∧ (raw.getD (raw.length - 2) 0).toNat ≤ 0x12

/-- Rules R108, R128: TX_BUF and TX_LEN change only by ENC_END or reset: no read, no illegal word and no other command
touches the telegram to resend. -/
def Obligations.TelegramSurvivesEverythingButEncEnd : Prop :=
  ∀ (acts : List HostAction) (s : State),
    (∀ a ∈ acts, a ≠ .reset ∧ ∀ w, a = .command w → decode w ≠ .ok .encEnd) →
    ∃ t, performAll acts s = .next t ∧ t.txOut = s.txOut

/-! ### Decoder (41_codec.md) -/

/-- Rule R76: DEC_CLR. -/
def Obligations.DecClrDiscardsTheStream : Prop :=
  HasEncoding "DEC_CLR" 0x30000000 0xFFFFFFFF ∧
  ∀ s : State, ∃ t, exec .decClr s = .next t ∧ t = { s with rx := t.rx } ∧
    t.rx.n = 0 ∧ t.rx.sum = 0 ∧ t.rx.w1 = 0 ∧ t.rx.w0 = 0 ∧ ∀ k (h : k < 21), t.rx.raw[k]'h = 0

/-- Rule R77: DEC_PUSH. -/
def Obligations.DecPushReceivesOneByte : Prop :=
  HasEncoding "DEC_PUSH" 0x31000000 0xFFFFFF00 ∧
  ∀ (b : Byte) (s : State), ∃ t, exec (.decPush b) s = .next t ∧ t = { s with rx := t.rx } ∧
    t.rx.n.toNat = min (s.rx.n.toNat + 1) 255 ∧
    t.rx.sum.toNat = (if 2 ≤ s.rx.n.toNat then (s.rx.sum.toNat + s.rx.w1.toNat) % 65536 else s.rx.sum.toNat) ∧
    t.rx.w1 = s.rx.w0 ∧ t.rx.w0 = b ∧
    ∀ k (h : k < 21), t.rx.raw[k]'h = if k = s.rx.n.toNat then b else s.rx.raw[k]'h

/-- Rules R34, R78: the stream state after any bytes pushed on an empty stream, and what empties it. -/
def Obligations.StreamHoldsThePushedBytes : Prop :=
  (∀ (bs : List Byte) (s : State), s.rx = RxStream.empty → ∃ t,
    issue (bs.map .decPush) s = .next t ∧ t = { s with rx := t.rx } ∧
    t.rx.n.toNat = min bs.length 255 ∧
    t.rx.sum.toNat = ((bs.take (bs.length - 2)).map BitVec.toNat).sum % 65536 ∧
    t.rx.w1 = (if 2 ≤ bs.length then bs.getD (bs.length - 2) 0 else 0) ∧
    t.rx.w0 = (if 1 ≤ bs.length then bs.getD (bs.length - 1) 0 else 0) ∧
    ∀ k (h : k < 21), t.rx.raw[k]'h = bs.getD k 0) ∧
  State.reset.rx = RxStream.empty ∧
  (∀ s : State, ∃ t, exec .decClr s = .next t ∧ t.rx = RxStream.empty) ∧
  ∀ s : State, ∃ t, exec .decEnd s = .next t ∧ t.rx = RxStream.empty

/-- Rules R79, R112: DEC_END, its verdict in the order the rule gives, its results, and the stream consumed whatever the
verdict. -/
def Obligations.DecEndJudgesTheStream : Prop :=
  HasEncoding "DEC_END" 0x32000000 0xFFFFFFFF ∧
  ∀ s : State, ∃ t, exec .decEnd s = .next t ∧
    t = { s with rx := t.rx, rxOut := t.rxOut, status := { s.status with dec := t.status.dec } } ∧
    t.rx = RxStream.empty ∧
    let n := s.rx.n.toNat
    let plen := if 5 ≤ n then n - 5 else 0
    let dlen := (byteAt s.rx.raw 0).toNat % 16 + 1
    let sumOk := s.rx.sum.toNat = s.rx.w1.toNat * 256 + s.rx.w0.toNat
    (n < 2 → t.status.dec = .lengthMismatch) ∧
    (2 ≤ n → ¬ sumOk → t.status.dec = .checksumMismatch) ∧
    (2 ≤ n → sumOk → plen ≠ dlen → t.status.dec = .lengthMismatch) ∧
    (2 ≤ n → sumOk → plen = dlen → t.status.dec = .ok ∧
      t.rxOut.delim = byteAt s.rx.raw 0 ∧ t.rxOut.node = byteAt s.rx.raw 1 ∧ t.rxOut.obj = byteAt s.rx.raw 2 ∧
      t.rxOut.plen.toNat = plen ∧
      ∀ k (h : k < 16), t.rxOut.pay[k]'h = if k < plen then byteAt s.rx.raw (3 + k) else 0) ∧
    (t.status.dec ≠ .ok → t.rxOut = s.rxOut)

/-- Rule R80: the sequence DECODE computes the source's Decode of a byte sequence of any length. -/
def Obligations.DecodeSequenceIsDecode : Prop :=
  ∀ (raw : List Byte) (s : State), ∃ t, (Pseudo.decode raw).issue s = .next t ∧
    t.status.dec = (decodeTelegram raw).stat ∧
    ((decodeTelegram raw).stat = .ok →
      t.rxOut.delim = raw.getD 0 0 ∧ t.rxOut.node = raw.getD 1 0 ∧ t.rxOut.obj = raw.getD 2 0 ∧
      t.rxOut.plen.toNat = raw.length - 5 ∧ t.rxOut.payload = (raw.take (raw.length - 2)).drop 3 ∧
      decodeTelegram raw = .ok t.rxOut.delim t.rxOut.node t.rxOut.obj t.rxOut.payload) ∧
    ((decodeTelegram raw).stat ≠ .ok → t.rxOut = s.rxOut)

/-- Rule R81: every telegram the encoder builds decodes to what was encoded, RX_FIELDS included. -/
def Obligations.TelegramRoundTrip : Prop :=
  ∀ (tt : BitVec 2) (bc dir : BitVec 1) (node obj : Byte) (p : List Byte) (s : State),
    1 ≤ p.length → p.length ≤ 16 → ∃ t u,
    (Pseudo.encode tt bc dir node obj p).issue s = .next t ∧
    (Pseudo.decode t.txOut.telegram).issue t = .next u ∧
    u.status.dec = .ok ∧ u.rxOut.node = node ∧ u.rxOut.obj = obj ∧ u.rxOut.plen.toNat = p.length ∧
    u.rxOut.payload = p ∧ u.rxOut.delim = delim tt bc dir p.length ∧
    (hostRead u 0x0C).toNat = p.length + 2 ^ 8 * dir.toNat + 2 ^ 9 * bc.toNat + 2 ^ 10 * tt.toNat

/-- Rule R82: every single-bit flip of a telegram ENC_END built, in the trailer too, makes DEC_END report a checksum
mismatch. -/
def Obligations.SingleBitFlipIsAChecksumMismatch : Prop :=
  ∀ (tt : BitVec 2) (bc dir : BitVec 1) (node obj : Byte) (p : List Byte) (s r : State) (i j : Nat),
    1 ≤ p.length → p.length ≤ 16 → i < p.length + 5 → j < 8 → ∃ t u,
    (Pseudo.encode tt bc dir node obj p).issue s = .next t ∧
    (Pseudo.decode (flipBit t.txOut.telegram i j)).issue r = .next u ∧
    u.status.dec = .checksumMismatch ∧ u.rxOut = r.rxOut

/-- Rule R109: a strict prefix of a telegram whose delimiter is right never gives OK. -/
def Obligations.TruncatedTelegramIsNeverAccepted : Prop :=
  ∀ (tt : BitVec 2) (bc dir : BitVec 1) (node obj : Byte) (p tel : List Byte) (m : Nat) (s : State),
    encodeTelegram tt bc dir node obj p = some tel → m < tel.length →
    ∃ u, (Pseudo.decode (tel.take m)).issue s = .next u ∧ u.status.dec ≠ .ok ∧ u.rxOut = s.rxOut

/-! ### Quantizer (43_quantizer.md) -/

/-- Rule R92: to_register is exactly rounding of `25600 * V / N` to nearest with an exact tie to the even neighbour, on the
range where it has a value. -/
def Obligations.ToRegisterRoundsHalfToEven : Prop :=
  (∀ v n : Nat, toRegister v n = none ↔ n = 0 ∨ n < v) ∧
  (∀ v n q : Nat, toRegister v n = some q → q ≤ 25600) ∧
  ∀ v n q : Nat, toRegister v n = some q ↔
    0 < n ∧ v ≤ n ∧ 2 * n * q ≤ 51200 * v + n ∧ 51200 * v ≤ 2 * n * q + n ∧
    (2 * n * q = 51200 * v + n ∨ 51200 * v = 2 * n * q + n → q % 2 = 0)

/-- Rules R93, R94: Q_LDV and Q_LDN. -/
def Obligations.LoadCommandsSetTheOperands : Prop :=
  HasEncoding "Q_LDV" 0x40000000 0xFF000000 ∧ HasEncoding "Q_LDN" 0x41000000 0xFF000000 ∧
  ∀ (imm : BitVec 24) (s : State),
    exec (.qLdv imm) s = .next { s with quant := { s.quant with qv := imm } } ∧
    exec (.qLdn imm) s = .next { s with quant := { s.quant with qn := imm } }

/-- Rules R95, R92: Q_TOREG on success and on RANGE_ERROR. -/
def Obligations.ToregQuantizesOrRangeError : Prop :=
  HasEncoding "Q_TOREG" 0x42000000 0xFFFFFFFF ∧
  ∀ s : State, ∃ t, exec .qToreg s = .next t ∧
    (s.quant.qn = 0 ∨ s.quant.qn.toNat < s.quant.qv.toNat →
      t = { s with status := { s.status with q := .rangeError } }) ∧
    (s.quant.qn ≠ 0 → s.quant.qv.toNat ≤ s.quant.qn.toNat →
      t = { s with quant := { s.quant with qreg := t.quant.qreg }, status := { s.status with q := .ok } } ∧
      toRegister s.quant.qv.toNat s.quant.qn.toNat = some t.quant.qreg.toNat ∧ t.quant.qreg.toNat ≤ 25600)

/-- Rules R96 to R98: Q_FROM16 and Q_FROM8 give the exact quotient as integer part and numerator. -/
def Obligations.FromRegisterIsExact : Prop :=
  HasEncoding "Q_FROM16" 0x43000000 0xFFFF0000 ∧ HasEncoding "Q_FROM8" 0x44000000 0xFFFFFF00 ∧
  (∀ (hi lo : Byte) (s : State), ∃ t, exec (.qFrom16 hi lo) s = .next t ∧
    t = { s with quant := { s.quant with qpInt := t.quant.qpInt, qpFrac := t.quant.qpFrac },
                 status := { s.status with q := .ok } } ∧
    25600 * t.quant.qpInt.toNat + t.quant.qpFrac.toNat = s.quant.qn.toNat * (hi.toNat * 256 + lo.toNat) ∧
    t.quant.qpFrac.toNat < 25600 ∧ t.quant.qpInt.toNat ≤ 42949015) ∧
  ∀ (hi : Byte) (s : State), ∃ t, exec (.qFrom8 hi) s = .next t ∧
    t = { s with quant := { s.quant with qpInt := t.quant.qpInt, qpFrac := t.quant.qpFrac },
                 status := { s.status with q := .ok } } ∧
    25600 * t.quant.qpInt.toNat + t.quant.qpFrac.toNat = s.quant.qn.toNat * (hi.toNat * 256) ∧
    t.quant.qpFrac.toNat < 25600 ∧ t.quant.qpInt.toNat ≤ 42949015

/-- Rule R100: quantizing a value in range and converting the register back, by the block's own commands, is off by at most
`N / 51200`; and rule R95's corner: the nominal itself gives register 25600. -/
def Obligations.QuantizerRoundTripBound : Prop :=
  ∀ (v n : BitVec 24) (s : State), 1 ≤ n.toNat → v.toNat ≤ n.toNat → ∃ t u,
    (Pseudo.toreg v n).issue s = .next t ∧ t.status.q = .ok ∧
    exec (.qFrom16 (t.quant.qreg.extractLsb' 8 8) (t.quant.qreg.extractLsb' 0 8)) t = .next u ∧ u.status.q = .ok ∧
    |2 * (25600 * (u.quant.qpInt.toNat : Int) + u.quant.qpFrac.toNat) - 51200 * v.toNat| ≤ n.toNat ∧
    (v = n → t.quant.qreg.toNat = 25600)

/-! ### Status and illegal words (44_status.md) -/

/-- Rule R103: ST_CLR. -/
def Obligations.StClrClearsStatusOnly : Prop :=
  HasEncoding "ST_CLR" 0xF0000000 0xFFFFFFFF ∧
  ∀ s : State, ∃ t, exec .stClr s = .next t ∧ t = { s with status := t.status } ∧
    t.status = ⟨.none, .none, .none, false, false⟩ ∧ hostRead t 0x00 = 0

/-- Rule R104: a word that is no command sets ILL and changes nothing else; ILL stays until ST_CLR or reset; the rule's own
examples. -/
def Obligations.IllegalWordSetsStickyIll : Prop :=
  (∀ (w : Word) (s : State), decodeByTable w = none →
    acceptWord w s = .next { s with status := { s.status with ill := true } }) ∧
  (∀ (a : HostAction) (s t : State), performAction a s = .next t → s.status.ill = true →
    t.status.ill = true ∨ a = .command 0xF0000000 ∨ a = .reset) ∧
  (∀ s : State, ∃ t, acceptWord 0xF0000000 s = .next t ∧ t.status.ill = false) ∧
  (∀ s : State, ∃ t, performAction .reset s = .next t ∧ t.status.ill = false) ∧
  (∀ w ∈ [0x00000000#32, 0x22000001#32, 0x20010032#32, 0x13000000#32], decodeByTable w = none) ∧
  ∃ t, acceptWord 0x13000000#32 State.reset = .next t ∧ hostRead t 0x00 = 0x80

/-- Rule R65: the opcodes outside the map, range by range, are illegal whatever the other bits, and there are 241. -/
def Obligations.ReservedOpcodesAreIllegal : Prop :=
  (∀ w : Word,
    (w.toNat / 2 ^ 24 ≤ 0x0F ∨ 0x13 ≤ w.toNat / 2 ^ 24 ∧ w.toNat / 2 ^ 24 ≤ 0x1F ∨
     0x23 ≤ w.toNat / 2 ^ 24 ∧ w.toNat / 2 ^ 24 ≤ 0x2F ∨ 0x33 ≤ w.toNat / 2 ^ 24 ∧ w.toNat / 2 ^ 24 ≤ 0x3F ∨
     0x45 ≤ w.toNat / 2 ^ 24 ∧ w.toNat / 2 ^ 24 ≤ 0xEF ∨ 0xF1 ≤ w.toNat / 2 ^ 24) ↔
    decode w = .error .reservedOpcode) ∧
  ((List.range 256).filter fun op =>
    match decode (BitVec.ofNat 32 (op * 2 ^ 24)) with | .error _ => true | .ok _ => false).length = 241

/-! ### Whole-machine rules -/

/-- Rule R31: the complete write set of each command; an illegal word writes only ILL; no command writes an element of
another unit (ST_CLR, the status command, clears the verdicts). -/
def Obligations.CommandsWriteOnlyTheirWriteSet : Prop :=
  (∀ (i : Instr) (s : State), ∃ t, exec i s = .next t ∧ OnlyWrites (writeSet i t.status) s t) ∧
  (∀ (i : Instr) (after : Status) (e : Elem), e ∈ writeSet i after → i = .stClr ∨ e.part = instrPart i) ∧
  ∀ (w : Word) (e : IllegalWord) (s : State), decode w = .error e →
    ∃ t, acceptWord w s = .next t ∧ OnlyWrites [.ill] s t

/-- Rule R20: "No command reads a STATUS field as an input": two states that differ only in STATUS are still alike in
everything else after any command, and the command's own verdicts are alike. -/
def Obligations.NoCommandReadsStatus : Prop :=
  ∀ (i : Instr) (s : State) (v : Status), ∃ t u,
    exec i s = .next t ∧ exec i { s with status := v } = .next u ∧
    t = { u with status := t.status } ∧
    (t.status.enc = u.status.enc ∨ t.status.enc = s.status.enc ∧ u.status.enc = v.enc) ∧
    (t.status.dec = u.status.dec ∨ t.status.dec = s.status.dec ∧ u.status.dec = v.dec) ∧
    (t.status.q = u.status.q ∨ t.status.q = s.status.q ∧ u.status.q = v.q) ∧
    (t.status.csMatch = u.status.csMatch ∨ t.status.csMatch = s.status.csMatch ∧ u.status.csMatch = v.csMatch) ∧
    (t.status.ill = u.status.ill ∨ t.status.ill = s.status.ill ∧ u.status.ill = v.ill)

/-- Rule R127: commands to different units may be interleaved in any order: what a unit holds after any sequence of the
four units' commands is what it holds after its own commands alone. -/
def Obligations.UnitsDoNotDisturbEachOther : Prop :=
  ∀ (is : List Instr) (part : Part) (s : State), (∀ i ∈ is, instrPart i ≠ .status) → part ≠ .status →
    ∃ t u, issue is s = .next t ∧ issue (is.filter fun i => instrPart i == part) s = .next u ∧
      ∀ e : Elem, e.part = part → e.value t = e.value u

/-- Rules R24, R26, R33, R34: the invariant of every run is kept by every step, whatever the host does next. -/
def Obligations.StepKeepsTheInvariant : Prop :=
  ∀ s t : State, Inv s → step s = .next t → Inv t

/-- The invariant holds right after reset. -/
def Obligations.ResetMeetsTheInvariant : Prop := Inv State.reset

/-- Rule R33's clauses, as far as they agree with rule R103 (log entry 6), hold in every state a run from reset reaches,
whatever words, reads and resets the host issues. -/
def Obligations.RunsFromResetStayInRange : Prop :=
  ∀ acts : List HostAction, ∃ t, performAll acts State.reset = .next t ∧
    t.txPay.cnt.toNat ≤ 16 ∧ (t.txPay.ovf = true → t.txPay.cnt.toNat = 16) ∧
    (t.txOut.len.toNat = 0 ∨ 6 ≤ t.txOut.len.toNat ∧ t.txOut.len.toNat ≤ 21) ∧
    (∀ k, t.txOut.len.toNat ≤ k → byteAt t.txOut.buf k = 0) ∧
    (t.rxOut.plen.toNat = 0 ∨ 1 ≤ t.rxOut.plen.toNat ∧ t.rxOut.plen.toNat ≤ 16) ∧
    (∀ k, t.rxOut.plen.toNat ≤ k → byteAt t.rxOut.pay k = 0) ∧
    t.quant.qreg.toNat ≤ 25600 ∧ t.quant.qpFrac.toNat < 25600

/-- Rule R33's clause "`TX_LEN = 0` if ENC_STAT is not OK", read literally over every run. It FAILS: rule R103 has ST_CLR
keep TX_LEN (T-ST-2), so a good telegram outlives its OK verdict (log entry 6). -/
def Obligations.NoTelegramWithoutOkVerdict : Prop :=
  ∀ (acts : List HostAction) (t : State), performAll acts State.reset = .next t →
    t.status.enc ≠ .ok → t.txOut.len.toNat = 0

/-- Rule R33's clause "`TX_LEN = 0` if ENC_STAT is not OK", as far as rule R103 lets it hold (log entry 6): it holds at reset,
ENC_END establishes it from every state, and every step keeps it but the one whose action is the ST_CLR word. R33 derives
the clause from R32 and the command rules of 41_codec.md, 42_checksum.md and 43_quantizer.md; ST_CLR is in none of them. -/
def Obligations.OnlyStClrPartsTelegramFromItsVerdict : Prop :=
  (State.reset.status.enc ≠ .ok → State.reset.txOut.len.toNat = 0) ∧
  (∀ s : State, ∃ t, exec .encEnd s = .next t ∧ (t.status.enc ≠ .ok → t.txOut.len.toNat = 0)) ∧
  ∀ s t : State, (s.status.enc ≠ .ok → s.txOut.len.toNat = 0) → s.port.head? ≠ some (.command 0xF0000000) →
    step s = .next t → t.status.enc ≠ .ok → t.txOut.len.toNat = 0
end

