-- ==== Sys2Proof/Laws/Encoding.lean ====
section
/-! SUPPORT. The formats' fields: what the decoder's field functions read from a word the encoder lays out
(30_encoding.md rules R57 to R62), and the number of a word. -/

namespace Sys2Proof

/-- The number of a concatenation (00_scope.md rule R7: `{a, b}` has `a` in the high bits). -/
theorem toNat_append_eq {n m : Nat} (x : BitVec n) (y : BitVec m) : (x ++ y).toNat = x.toNat * 2 ^ m + y.toNat := by
  rw [BitVec.toNat_append, ← Nat.shiftLeft_add_eq_or_of_lt y.isLt, Nat.shiftLeft_eq]

/-- The number of a field. -/
theorem toNat_extract (w : Word) (lo k : Nat) : (w.extractLsb' lo k).toNat = w.toNat / 2 ^ lo % 2 ^ k := by
  rw [BitVec.extractLsb'_toNat, Nat.shiftRight_eq_div_pow]

section Formats

variable (op : BitVec 8) (tt : BitVec 2) (bc dir : BitVec 1) (hi lo : Byte) (imm : BitVec 24)

/-! The number each format makes. -/

theorem toNat_encodeN : (encodeN op).toNat = op.toNat * 2 ^ 24 := by
  simp only [encodeN, toNat_append_eq, BitVec.toNat_ofNat]; omega

theorem toNat_encodeB : (encodeB op lo).toNat = op.toNat * 2 ^ 24 + lo.toNat := by
  simp only [encodeB, toNat_append_eq, BitVec.toNat_ofNat]; omega

theorem toNat_encodeW : (encodeW op hi lo).toNat = op.toNat * 2 ^ 24 + hi.toNat * 2 ^ 8 + lo.toNat := by
  simp only [encodeW, toNat_append_eq, BitVec.toNat_ofNat]; omega

theorem toNat_encodeH : (encodeH op tt bc dir hi lo).toNat = op.toNat * 2 ^ 24 + tt.toNat * 2 ^ 22 + bc.toNat * 2 ^ 21
    + dir.toNat * 2 ^ 20 + hi.toNat * 2 ^ 8 + lo.toNat := by
  simp only [encodeH, toNat_append_eq, BitVec.toNat_ofNat]; omega

theorem toNat_encodeI : (encodeI op imm).toNat = op.toNat * 2 ^ 24 + imm.toNat := by
  simp only [encodeI, toNat_append_eq]

/-! The opcode of each format (rule R55). -/

theorem opcodeOf_encodeN : opcodeOf (encodeN op) = op := by
  apply BitVec.eq_of_toNat_eq
  rw [opcodeOf, toNat_extract, toNat_encodeN]; omega

theorem opcodeOf_encodeB : opcodeOf (encodeB op lo) = op := by
  apply BitVec.eq_of_toNat_eq
  rw [opcodeOf, toNat_extract, toNat_encodeB]; omega

theorem opcodeOf_encodeW : opcodeOf (encodeW op hi lo) = op := by
  apply BitVec.eq_of_toNat_eq
  rw [opcodeOf, toNat_extract, toNat_encodeW]; omega

theorem opcodeOf_encodeH : opcodeOf (encodeH op tt bc dir hi lo) = op := by
  apply BitVec.eq_of_toNat_eq
  rw [opcodeOf, toNat_extract, toNat_encodeH]; omega

theorem opcodeOf_encodeI : opcodeOf (encodeI op imm) = op := by
  apply BitVec.eq_of_toNat_eq
  rw [opcodeOf, toNat_extract, toNat_encodeI]; omega

/-! Each format's own decoder reads its operands back (rule R62). -/

theorem decodeN_encodeN (i : Instr) : decodeN i (encodeN op) = .ok i := by
  refine if_pos (BitVec.eq_of_toNat_eq ?_)
  rw [toNat_extract, toNat_encodeN, BitVec.toNat_ofNat]; omega

theorem decodeB_encodeB (mk : Byte → Instr) : decodeB mk (encodeB op lo) = .ok (mk lo) := by
  have hr : (encodeB op lo).extractLsb' 8 16 = 0#16 := by
    apply BitVec.eq_of_toNat_eq
    rw [toNat_extract, toNat_encodeB, BitVec.toNat_ofNat]; omega
  have hl : lowByte (encodeB op lo) = lo := by
    apply BitVec.eq_of_toNat_eq
    rw [lowByte, toNat_extract, toNat_encodeB]; omega
  rw [decodeB, if_pos hr, hl]

theorem decodeW_encodeW (mk : Byte → Byte → Instr) : decodeW mk (encodeW op hi lo) = .ok (mk hi lo) := by
  have hr : (encodeW op hi lo).extractLsb' 16 8 = 0#8 := by
    apply BitVec.eq_of_toNat_eq
    rw [toNat_extract, toNat_encodeW, BitVec.toNat_ofNat]; omega
  have hh : secondByte (encodeW op hi lo) = hi := by
    apply BitVec.eq_of_toNat_eq
    rw [secondByte, toNat_extract, toNat_encodeW]; omega
  have hl : lowByte (encodeW op hi lo) = lo := by
    apply BitVec.eq_of_toNat_eq
    rw [lowByte, toNat_extract, toNat_encodeW]; omega
  rw [decodeW, if_pos hr, hh, hl]

theorem decodeH_encodeH (mk : BitVec 2 → BitVec 1 → BitVec 1 → Byte → Byte → Instr) :
    decodeH mk (encodeH op tt bc dir hi lo) = .ok (mk tt bc dir hi lo) := by
  have hr : (encodeH op tt bc dir hi lo).extractLsb' 16 4 = 0#4 := by
    apply BitVec.eq_of_toNat_eq
    rw [toNat_extract, toNat_encodeH, BitVec.toNat_ofNat]; omega
  have ht : (encodeH op tt bc dir hi lo).extractLsb' 22 2 = tt := by
    apply BitVec.eq_of_toNat_eq
    rw [toNat_extract, toNat_encodeH]; omega
  have hb : (encodeH op tt bc dir hi lo).extractLsb' 21 1 = bc := by
    apply BitVec.eq_of_toNat_eq
    rw [toNat_extract, toNat_encodeH]; omega
  have hd : (encodeH op tt bc dir hi lo).extractLsb' 20 1 = dir := by
    apply BitVec.eq_of_toNat_eq
    rw [toNat_extract, toNat_encodeH]; omega
  have hh : secondByte (encodeH op tt bc dir hi lo) = hi := by
    apply BitVec.eq_of_toNat_eq
    rw [secondByte, toNat_extract, toNat_encodeH]; omega
  have hl : lowByte (encodeH op tt bc dir hi lo) = lo := by
    apply BitVec.eq_of_toNat_eq
    rw [lowByte, toNat_extract, toNat_encodeH]; omega
  rw [decodeH, if_pos hr, ht, hb, hd, hh, hl]

theorem decodeI_encodeI (mk : BitVec 24 → Instr) : decodeI mk (encodeI op imm) = .ok (mk imm) := by
  have hi : (encodeI op imm).extractLsb' 0 24 = imm := by
    apply BitVec.eq_of_toNat_eq
    rw [toNat_extract, toNat_encodeI]; omega
  rw [decodeI, hi]

end Formats

/-- Every command word is written and read as a number below 2 ^ 32: the word placed by its own number is itself. -/
theorem tableWord_toNat (w : Word) : tableWord 32 w.toNat = w := by
  apply BitVec.eq_of_toNat_eq
  rw [tableWord, BitVec.toNat_ofNat, Nat.mod_mod, Nat.mod_eq_of_lt w.isLt]

end Sys2Proof
end

