-- ==== Sys2Proof/Laws/State.lean ====
section
/-! SUPPORT. One lemma per field per named update of the state, true by rfl: an update writes its field and no other. -/

namespace Sys2Proof.Machine

section SetStatus
variable (s : State) (v : Status)
@[simp] theorem State.setStatus_status : (s.setStatus v).status = v := rfl
@[simp] theorem State.setStatus_csum : (s.setStatus v).csum = s.csum := rfl
@[simp] theorem State.setStatus_txHdr : (s.setStatus v).txHdr = s.txHdr := rfl
@[simp] theorem State.setStatus_txPay : (s.setStatus v).txPay = s.txPay := rfl
@[simp] theorem State.setStatus_txOut : (s.setStatus v).txOut = s.txOut := rfl
@[simp] theorem State.setStatus_rx : (s.setStatus v).rx = s.rx := rfl
@[simp] theorem State.setStatus_rxOut : (s.setStatus v).rxOut = s.rxOut := rfl
@[simp] theorem State.setStatus_quant : (s.setStatus v).quant = s.quant := rfl
@[simp] theorem State.setStatus_port : (s.setStatus v).port = s.port := rfl
@[simp] theorem State.setStatus_reads : (s.setStatus v).reads = s.reads := rfl
end SetStatus

section SetCsum
variable (s : State) (v : Half)
@[simp] theorem State.setCsum_status : (s.setCsum v).status = s.status := rfl
@[simp] theorem State.setCsum_csum : (s.setCsum v).csum = v := rfl
@[simp] theorem State.setCsum_txHdr : (s.setCsum v).txHdr = s.txHdr := rfl
@[simp] theorem State.setCsum_txPay : (s.setCsum v).txPay = s.txPay := rfl
@[simp] theorem State.setCsum_txOut : (s.setCsum v).txOut = s.txOut := rfl
@[simp] theorem State.setCsum_rx : (s.setCsum v).rx = s.rx := rfl
@[simp] theorem State.setCsum_rxOut : (s.setCsum v).rxOut = s.rxOut := rfl
@[simp] theorem State.setCsum_quant : (s.setCsum v).quant = s.quant := rfl
@[simp] theorem State.setCsum_port : (s.setCsum v).port = s.port := rfl
@[simp] theorem State.setCsum_reads : (s.setCsum v).reads = s.reads := rfl
end SetCsum

section SetTxHdr
variable (s : State) (v : TxHeader)
@[simp] theorem State.setTxHdr_status : (s.setTxHdr v).status = s.status := rfl
@[simp] theorem State.setTxHdr_csum : (s.setTxHdr v).csum = s.csum := rfl
@[simp] theorem State.setTxHdr_txHdr : (s.setTxHdr v).txHdr = v := rfl
@[simp] theorem State.setTxHdr_txPay : (s.setTxHdr v).txPay = s.txPay := rfl
@[simp] theorem State.setTxHdr_txOut : (s.setTxHdr v).txOut = s.txOut := rfl
@[simp] theorem State.setTxHdr_rx : (s.setTxHdr v).rx = s.rx := rfl
@[simp] theorem State.setTxHdr_rxOut : (s.setTxHdr v).rxOut = s.rxOut := rfl
@[simp] theorem State.setTxHdr_quant : (s.setTxHdr v).quant = s.quant := rfl
@[simp] theorem State.setTxHdr_port : (s.setTxHdr v).port = s.port := rfl
@[simp] theorem State.setTxHdr_reads : (s.setTxHdr v).reads = s.reads := rfl
end SetTxHdr

section SetTxPay
variable (s : State) (v : TxPayload)
@[simp] theorem State.setTxPay_status : (s.setTxPay v).status = s.status := rfl
@[simp] theorem State.setTxPay_csum : (s.setTxPay v).csum = s.csum := rfl
@[simp] theorem State.setTxPay_txHdr : (s.setTxPay v).txHdr = s.txHdr := rfl
@[simp] theorem State.setTxPay_txPay : (s.setTxPay v).txPay = v := rfl
@[simp] theorem State.setTxPay_txOut : (s.setTxPay v).txOut = s.txOut := rfl
@[simp] theorem State.setTxPay_rx : (s.setTxPay v).rx = s.rx := rfl
@[simp] theorem State.setTxPay_rxOut : (s.setTxPay v).rxOut = s.rxOut := rfl
@[simp] theorem State.setTxPay_quant : (s.setTxPay v).quant = s.quant := rfl
@[simp] theorem State.setTxPay_port : (s.setTxPay v).port = s.port := rfl
@[simp] theorem State.setTxPay_reads : (s.setTxPay v).reads = s.reads := rfl
end SetTxPay

section SetTxOut
variable (s : State) (v : TxFrame)
@[simp] theorem State.setTxOut_status : (s.setTxOut v).status = s.status := rfl
@[simp] theorem State.setTxOut_csum : (s.setTxOut v).csum = s.csum := rfl
@[simp] theorem State.setTxOut_txHdr : (s.setTxOut v).txHdr = s.txHdr := rfl
@[simp] theorem State.setTxOut_txPay : (s.setTxOut v).txPay = s.txPay := rfl
@[simp] theorem State.setTxOut_txOut : (s.setTxOut v).txOut = v := rfl
@[simp] theorem State.setTxOut_rx : (s.setTxOut v).rx = s.rx := rfl
@[simp] theorem State.setTxOut_rxOut : (s.setTxOut v).rxOut = s.rxOut := rfl
@[simp] theorem State.setTxOut_quant : (s.setTxOut v).quant = s.quant := rfl
@[simp] theorem State.setTxOut_port : (s.setTxOut v).port = s.port := rfl
@[simp] theorem State.setTxOut_reads : (s.setTxOut v).reads = s.reads := rfl
end SetTxOut

section SetRx
variable (s : State) (v : RxStream)
@[simp] theorem State.setRx_status : (s.setRx v).status = s.status := rfl
@[simp] theorem State.setRx_csum : (s.setRx v).csum = s.csum := rfl
@[simp] theorem State.setRx_txHdr : (s.setRx v).txHdr = s.txHdr := rfl
@[simp] theorem State.setRx_txPay : (s.setRx v).txPay = s.txPay := rfl
@[simp] theorem State.setRx_txOut : (s.setRx v).txOut = s.txOut := rfl
@[simp] theorem State.setRx_rx : (s.setRx v).rx = v := rfl
@[simp] theorem State.setRx_rxOut : (s.setRx v).rxOut = s.rxOut := rfl
@[simp] theorem State.setRx_quant : (s.setRx v).quant = s.quant := rfl
@[simp] theorem State.setRx_port : (s.setRx v).port = s.port := rfl
@[simp] theorem State.setRx_reads : (s.setRx v).reads = s.reads := rfl
end SetRx

section SetRxOut
variable (s : State) (v : RxFrame)
@[simp] theorem State.setRxOut_status : (s.setRxOut v).status = s.status := rfl
@[simp] theorem State.setRxOut_csum : (s.setRxOut v).csum = s.csum := rfl
@[simp] theorem State.setRxOut_txHdr : (s.setRxOut v).txHdr = s.txHdr := rfl
@[simp] theorem State.setRxOut_txPay : (s.setRxOut v).txPay = s.txPay := rfl
@[simp] theorem State.setRxOut_txOut : (s.setRxOut v).txOut = s.txOut := rfl
@[simp] theorem State.setRxOut_rx : (s.setRxOut v).rx = s.rx := rfl
@[simp] theorem State.setRxOut_rxOut : (s.setRxOut v).rxOut = v := rfl
@[simp] theorem State.setRxOut_quant : (s.setRxOut v).quant = s.quant := rfl
@[simp] theorem State.setRxOut_port : (s.setRxOut v).port = s.port := rfl
@[simp] theorem State.setRxOut_reads : (s.setRxOut v).reads = s.reads := rfl
end SetRxOut

section SetQuant
variable (s : State) (v : Quantizer)
@[simp] theorem State.setQuant_status : (s.setQuant v).status = s.status := rfl
@[simp] theorem State.setQuant_csum : (s.setQuant v).csum = s.csum := rfl
@[simp] theorem State.setQuant_txHdr : (s.setQuant v).txHdr = s.txHdr := rfl
@[simp] theorem State.setQuant_txPay : (s.setQuant v).txPay = s.txPay := rfl
@[simp] theorem State.setQuant_txOut : (s.setQuant v).txOut = s.txOut := rfl
@[simp] theorem State.setQuant_rx : (s.setQuant v).rx = s.rx := rfl
@[simp] theorem State.setQuant_rxOut : (s.setQuant v).rxOut = s.rxOut := rfl
@[simp] theorem State.setQuant_quant : (s.setQuant v).quant = v := rfl
@[simp] theorem State.setQuant_port : (s.setQuant v).port = s.port := rfl
@[simp] theorem State.setQuant_reads : (s.setQuant v).reads = s.reads := rfl
end SetQuant

section SetPort
variable (s : State) (v : List HostAction)
@[simp] theorem State.setPort_status : (s.setPort v).status = s.status := rfl
@[simp] theorem State.setPort_csum : (s.setPort v).csum = s.csum := rfl
@[simp] theorem State.setPort_txHdr : (s.setPort v).txHdr = s.txHdr := rfl
@[simp] theorem State.setPort_txPay : (s.setPort v).txPay = s.txPay := rfl
@[simp] theorem State.setPort_txOut : (s.setPort v).txOut = s.txOut := rfl
@[simp] theorem State.setPort_rx : (s.setPort v).rx = s.rx := rfl
@[simp] theorem State.setPort_rxOut : (s.setPort v).rxOut = s.rxOut := rfl
@[simp] theorem State.setPort_quant : (s.setPort v).quant = s.quant := rfl
@[simp] theorem State.setPort_port : (s.setPort v).port = v := rfl
@[simp] theorem State.setPort_reads : (s.setPort v).reads = s.reads := rfl
end SetPort

section SetReads
variable (s : State) (v : List Word)
@[simp] theorem State.setReads_status : (s.setReads v).status = s.status := rfl
@[simp] theorem State.setReads_csum : (s.setReads v).csum = s.csum := rfl
@[simp] theorem State.setReads_txHdr : (s.setReads v).txHdr = s.txHdr := rfl
@[simp] theorem State.setReads_txPay : (s.setReads v).txPay = s.txPay := rfl
@[simp] theorem State.setReads_txOut : (s.setReads v).txOut = s.txOut := rfl
@[simp] theorem State.setReads_rx : (s.setReads v).rx = s.rx := rfl
@[simp] theorem State.setReads_rxOut : (s.setReads v).rxOut = s.rxOut := rfl
@[simp] theorem State.setReads_quant : (s.setReads v).quant = s.quant := rfl
@[simp] theorem State.setReads_port : (s.setReads v).port = s.port := rfl
@[simp] theorem State.setReads_reads : (s.setReads v).reads = v := rfl
end SetReads

section SetStatusEnc
variable (t : Status) (v : EncStat)
@[simp] theorem Status.setEnc_enc : (t.setEnc v).enc = v := rfl
@[simp] theorem Status.setEnc_dec : (t.setEnc v).dec = t.dec := rfl
@[simp] theorem Status.setEnc_q : (t.setEnc v).q = t.q := rfl
@[simp] theorem Status.setEnc_csMatch : (t.setEnc v).csMatch = t.csMatch := rfl
@[simp] theorem Status.setEnc_ill : (t.setEnc v).ill = t.ill := rfl
end SetStatusEnc

section SetStatusDec
variable (t : Status) (v : DecStat)
@[simp] theorem Status.setDec_enc : (t.setDec v).enc = t.enc := rfl
@[simp] theorem Status.setDec_dec : (t.setDec v).dec = v := rfl
@[simp] theorem Status.setDec_q : (t.setDec v).q = t.q := rfl
@[simp] theorem Status.setDec_csMatch : (t.setDec v).csMatch = t.csMatch := rfl
@[simp] theorem Status.setDec_ill : (t.setDec v).ill = t.ill := rfl
end SetStatusDec

section SetStatusQ
variable (t : Status) (v : QStat)
@[simp] theorem Status.setQ_enc : (t.setQ v).enc = t.enc := rfl
@[simp] theorem Status.setQ_dec : (t.setQ v).dec = t.dec := rfl
@[simp] theorem Status.setQ_q : (t.setQ v).q = v := rfl
@[simp] theorem Status.setQ_csMatch : (t.setQ v).csMatch = t.csMatch := rfl
@[simp] theorem Status.setQ_ill : (t.setQ v).ill = t.ill := rfl
end SetStatusQ

section SetStatusCsMatch
variable (t : Status) (v : Bool)
@[simp] theorem Status.setCsMatch_enc : (t.setCsMatch v).enc = t.enc := rfl
@[simp] theorem Status.setCsMatch_dec : (t.setCsMatch v).dec = t.dec := rfl
@[simp] theorem Status.setCsMatch_q : (t.setCsMatch v).q = t.q := rfl
@[simp] theorem Status.setCsMatch_csMatch : (t.setCsMatch v).csMatch = v := rfl
@[simp] theorem Status.setCsMatch_ill : (t.setCsMatch v).ill = t.ill := rfl
end SetStatusCsMatch

section SetStatusIll
variable (t : Status) (v : Bool)
@[simp] theorem Status.setIll_enc : (t.setIll v).enc = t.enc := rfl
@[simp] theorem Status.setIll_dec : (t.setIll v).dec = t.dec := rfl
@[simp] theorem Status.setIll_q : (t.setIll v).q = t.q := rfl
@[simp] theorem Status.setIll_csMatch : (t.setIll v).csMatch = t.csMatch := rfl
@[simp] theorem Status.setIll_ill : (t.setIll v).ill = v := rfl
end SetStatusIll

section SetQv
variable (t : Quantizer) (v : BitVec 24)
@[simp] theorem Quantizer.setQv_qv : (t.setQv v).qv = v := rfl
@[simp] theorem Quantizer.setQv_qn : (t.setQv v).qn = t.qn := rfl
@[simp] theorem Quantizer.setQv_qreg : (t.setQv v).qreg = t.qreg := rfl
@[simp] theorem Quantizer.setQv_qpInt : (t.setQv v).qpInt = t.qpInt := rfl
@[simp] theorem Quantizer.setQv_qpFrac : (t.setQv v).qpFrac = t.qpFrac := rfl
end SetQv

section SetQn
variable (t : Quantizer) (v : BitVec 24)
@[simp] theorem Quantizer.setQn_qv : (t.setQn v).qv = t.qv := rfl
@[simp] theorem Quantizer.setQn_qn : (t.setQn v).qn = v := rfl
@[simp] theorem Quantizer.setQn_qreg : (t.setQn v).qreg = t.qreg := rfl
@[simp] theorem Quantizer.setQn_qpInt : (t.setQn v).qpInt = t.qpInt := rfl
@[simp] theorem Quantizer.setQn_qpFrac : (t.setQn v).qpFrac = t.qpFrac := rfl
end SetQn

section SetQreg
variable (t : Quantizer) (v : Half)
@[simp] theorem Quantizer.setQreg_qv : (t.setQreg v).qv = t.qv := rfl
@[simp] theorem Quantizer.setQreg_qn : (t.setQreg v).qn = t.qn := rfl
@[simp] theorem Quantizer.setQreg_qreg : (t.setQreg v).qreg = v := rfl
@[simp] theorem Quantizer.setQreg_qpInt : (t.setQreg v).qpInt = t.qpInt := rfl
@[simp] theorem Quantizer.setQreg_qpFrac : (t.setQreg v).qpFrac = t.qpFrac := rfl
end SetQreg

section SetQp
variable (t : Quantizer) (i : BitVec 32) (f : Half)
@[simp] theorem Quantizer.setQp_qv : (t.setQp i f).qv = t.qv := rfl
@[simp] theorem Quantizer.setQp_qn : (t.setQp i f).qn = t.qn := rfl
@[simp] theorem Quantizer.setQp_qreg : (t.setQp i f).qreg = t.qreg := rfl
@[simp] theorem Quantizer.setQp_qpInt : (t.setQp i f).qpInt = i := rfl
@[simp] theorem Quantizer.setQp_qpFrac : (t.setQp i f).qpFrac = f := rfl
end SetQp

/-- Putting back what is held changes nothing. -/
@[simp] theorem State.setPort_self (s : State) : s.setPort s.port = s := rfl

/-- An update of the block and one of the host's port do not meet. -/
theorem State.setStatus_setPort (s : State) (v : Status) (p : List HostAction) :
    (s.setPort p).setStatus v = (s.setStatus v).setPort p := rfl

/-- An update of the block and one of the host's port do not meet. -/
theorem State.setCsum_setPort (s : State) (v : Half) (p : List HostAction) :
    (s.setPort p).setCsum v = (s.setCsum v).setPort p := rfl

/-- An update of the block and one of the host's port do not meet. -/
theorem State.setTxHdr_setPort (s : State) (v : TxHeader) (p : List HostAction) :
    (s.setPort p).setTxHdr v = (s.setTxHdr v).setPort p := rfl

/-- An update of the block and one of the host's port do not meet. -/
theorem State.setTxPay_setPort (s : State) (v : TxPayload) (p : List HostAction) :
    (s.setPort p).setTxPay v = (s.setTxPay v).setPort p := rfl

/-- An update of the block and one of the host's port do not meet. -/
theorem State.setTxOut_setPort (s : State) (v : TxFrame) (p : List HostAction) :
    (s.setPort p).setTxOut v = (s.setTxOut v).setPort p := rfl

/-- An update of the block and one of the host's port do not meet. -/
theorem State.setRx_setPort (s : State) (v : RxStream) (p : List HostAction) :
    (s.setPort p).setRx v = (s.setRx v).setPort p := rfl

/-- An update of the block and one of the host's port do not meet. -/
theorem State.setRxOut_setPort (s : State) (v : RxFrame) (p : List HostAction) :
    (s.setPort p).setRxOut v = (s.setRxOut v).setPort p := rfl

/-- An update of the block and one of the host's port do not meet. -/
theorem State.setQuant_setPort (s : State) (v : Quantizer) (p : List HostAction) :
    (s.setPort p).setQuant v = (s.setQuant v).setPort p := rfl

/-- An update of the block and one of the host's port do not meet. -/
theorem State.setReads_setPort (s : State) (v : List Word) (p : List HostAction) :
    (s.setPort p).setReads v = (s.setReads v).setPort p := rfl

end Sys2Proof.Machine
end

