-- ==== Sys2Proof/Laws/Ops.lean ====
section
/-! SUPPORT. One lemma per shared operation that says what it does: the buffers, the checksum, the payload and the stream
as functions of the bytes pushed, and the form of every command's next state. -/

namespace Sys2Proof.Machine

/-! ### Buffers -/

/-- Padding keeps the bytes and adds zeros. -/
@[simp] theorem getElem_padTo (n : Nat) (l : List Byte) (k : Nat) (h : k < n) : (padTo n l)[k] = l.getD k 0 := by
  simp [padTo]

/-- Inside a buffer `byteAt` is the entry. -/
theorem byteAt_of_lt {n : Nat} (v : Vector Byte n) {k : Nat} (h : k < n) : byteAt v k = v[k] := by
  simp [byteAt, h]

/-- Outside a buffer `byteAt` is 0. -/
theorem byteAt_of_le {n : Nat} (v : Vector Byte n) {k : Nat} (h : n ≤ k) : byteAt v k = 0 := by
  simp [byteAt, h]

/-- A padded list read at any index within the buffer. -/
theorem byteAt_padTo {n k : Nat} (l : List Byte) (h : k < n) : byteAt (padTo n l) k = l.getD k 0 := by
  rw [byteAt_of_lt _ h, getElem_padTo]

/-- A padded list as a list: the bytes, cut at the buffer's size, then zeros. -/
theorem toList_padTo (n : Nat) (l : List Byte) :
    (padTo n l).toList = l.take n ++ List.replicate (n - l.length) 0 := by
  apply List.ext_getElem
  · simp; omega
  · intro k hk _
    have hk' : k < n := by simpa using hk
    rw [Vector.getElem_toList, getElem_padTo _ _ _ hk', List.getElem_append]
    split <;> rename_i hlt
    · have : k < l.length := by simp at hlt; omega
      rw [List.getD_eq_getElem _ _ this, List.getElem_take]
    · have : l.length ≤ k := by simp at hlt; omega
      rw [List.getD_eq_default _ _ this, List.getElem_replicate]

/-- What is read back from a padded list that fits. -/
theorem take_toList_padTo {n : Nat} {l : List Byte} (h : l.length ≤ n) : (padTo n l).toList.take l.length = l := by
  rw [toList_padTo, List.take_append_of_le_length (by simp [h]), List.take_of_length_le h, List.take_length]

/-- Storing the next byte of a sequence extends the sequence. -/
theorem setIfInBounds_padTo {n : Nat} (l : List Byte) (b : Byte) :
    (padTo n l).setIfInBounds l.length b = padTo n (l ++ [b]) := by
  apply Vector.ext
  intro k hk
  rw [Vector.getElem_setIfInBounds hk, getElem_padTo, getElem_padTo]
  by_cases h : l.length = k
  · subst h; simp
  · simp only [h, if_false, List.getD_eq_getElem?_getD]
    rcases Nat.lt_or_gt_of_ne h with h' | h'
    · rw [List.getElem?_eq_none (by omega), List.getElem?_eq_none (by simp; omega)]
    · rw [List.getElem?_append_left h']

/-- No byte pushed, no byte held. -/
theorem padTo_nil (n : Nat) : padTo n [] = Vector.replicate n 0 := by
  apply Vector.ext
  intro k hk
  simp

/-- A buffer full of captured bytes takes no more. -/
theorem padTo_append_of_le {n : Nat} (l : List Byte) (b : Byte) (h : n ≤ l.length) : padTo n (l ++ [b]) = padTo n l := by
  apply Vector.ext
  intro k hk
  simp only [getElem_padTo, List.getD_eq_getElem?_getD]
  rw [List.getElem?_append_left (by omega)]

/-! ### The checksum -/

/-- `csum16([]) = 0` (rule R85). -/
@[simp] theorem csum16_nil : csum16 [] = 0 := rfl

/-- The checksum's number (rule R85). -/
theorem toNat_csum16 (seq : List Byte) : (csum16 seq).toNat = (seq.map BitVec.toNat).sum % 65536 := by
  simp [csum16]

/-- One more byte (rule R86). -/
theorem csum16_concat (seq : List Byte) (b : Byte) : csum16 (seq ++ [b]) = csum16 seq + b.setWidth 16 := by
  apply BitVec.eq_of_toNat_eq
  have := b.isLt
  simp [csum16]

/-- The number of a byte pair (rule R40). -/
theorem toNat_pairValue (hi lo : Byte) : (pairValue hi lo).toNat = hi.toNat * 256 + lo.toNat := by
  have := lo.isLt
  simp only [pairValue, BitVec.toNat_append]
  rw [← Nat.shiftLeft_add_eq_or_of_lt this, Nat.shiftLeft_eq]

/-- The trailer read back as a pair is the checksum (rules R39, R40). -/
theorem pairValue_trailer (c : Half) : pairValue (c.extractLsb' 8 8) (c.extractLsb' 0 8) = c := by
  apply BitVec.eq_of_toNat_eq
  rw [toNat_pairValue]
  simp only [BitVec.extractLsb'_toNat, Nat.shiftRight_zero]
  have := c.isLt
  omega

/-- `declaredLength` as arithmetic on the delimiter's number (rule R46). -/
theorem declaredLength_eq (d : Byte) : declaredLength d = d.toNat % 16 + 1 := by
  simp [declaredLength]

/-! ### The payload and the stream as functions of the bytes pushed -/

/-- ENC_PUSH extends the sequence of pushed bytes (rule R72). -/
theorem push_payloadOf (bs : List Byte) (b : Byte) : (payloadOf bs).push b = payloadOf (bs ++ [b]) := by
  by_cases h : bs.length < 16
  · have hc : (payloadOf bs).cnt.toNat = bs.length := by simp [payloadOf]; omega
    simp only [TxPayload.push, hc, h, if_true, Config.maxPayload]
    have hp : (payloadOf bs).pay = padTo 16 bs := rfl
    have ho : (payloadOf bs).ovf = false := by simp [payloadOf]; omega
    rw [hp, ho, setIfInBounds_padTo]
    simp only [payloadOf, TxPayload.mk.injEq, true_and]
    refine ⟨?_, by simp; omega⟩
    apply BitVec.eq_of_toNat_eq
    simp; omega
  · have hc : (payloadOf bs).cnt.toNat = 16 := by simp [payloadOf, Nat.min_eq_right (Nat.le_of_not_lt h)]
    simp only [TxPayload.push, hc, Config.maxPayload, lt_irrefl, if_false]
    simp only [payloadOf, TxPayload.mk.injEq]
    refine ⟨(padTo_append_of_le _ _ (by omega)).symm, ?_, by simp; omega⟩
    congr 1; simp; omega

/-- No byte pushed. -/
theorem payloadOf_nil : payloadOf [] = TxPayload.empty := by
  simp [payloadOf, TxPayload.empty, padTo_nil]

/-- No byte pushed. -/
theorem streamOf_nil : streamOf [] = RxStream.empty := by
  simp [streamOf, RxStream.empty, padTo_nil]

/-- DEC_PUSH extends the sequence of pushed bytes (rules R77, R78). -/
theorem push_streamOf (bs : List Byte) (b : Byte) : (streamOf bs).push b = streamOf (bs ++ [b]) := by
  have hn : (streamOf bs).n.toNat = min bs.length 255 := by simp [streamOf]
  have hraw : (streamOf bs).raw = padTo 21 bs := rfl
  have hsum : (streamOf bs).sum = csum16 (bs.take (bs.length - 2)) := rfl
  have hw1 : (streamOf bs).w1 = if 2 ≤ bs.length then bs.getD (bs.length - 2) 0 else 0 := rfl
  have hw0 : (streamOf bs).w0 = if 1 ≤ bs.length then bs.getD (bs.length - 1) 0 else 0 := rfl
  simp only [RxStream.push, hn, hraw, hsum, hw1, hw0]
  simp only [streamOf, RxStream.mk.injEq]
  refine ⟨?_, ?_, ?_, ?_, ?_⟩
  · apply BitVec.eq_of_toNat_eq; simp; omega
  · by_cases h : 2 ≤ bs.length
    · have h2 : 2 ≤ min bs.length 255 := by omega
      simp only [h2, h, if_true]
      rw [← csum16_concat]
      congr 1
      have hl : (bs ++ [b]).length - 2 = bs.length - 2 + 1 := by simp; omega
      rw [hl, List.take_append_of_le_length (by omega), List.take_add_one]
      congr 1
      rw [List.getD_eq_getElem?_getD, List.getElem?_eq_getElem (by omega)]
      simp
    · have h2 : ¬ 2 ≤ min bs.length 255 := by omega
      have e1 : bs.length - 2 = 0 := by omega
      have e2 : (bs ++ [b]).length - 2 = 0 := by rw [List.length_append, List.length_singleton]; omega
      simp only [h2, if_false, e1, e2, List.take_zero]
  · cases bs with
    | nil => simp
    | cons a l =>
      have e : (a :: l ++ [b]).length - 2 = (a :: l).length - 1 := by simp
      rw [if_pos (by simp), if_pos (by simp), e, List.getD_eq_getElem?_getD, List.getD_eq_getElem?_getD,
        List.getElem?_append_left (by simp)]
  · simp
  · by_cases h : bs.length < 21
    · have h2 : min bs.length 255 = bs.length := by omega
      simp [h2, h, setIfInBounds_padTo]
    · have h2 : ¬ min bs.length 255 < 21 := by omega
      simp only [Config.maxTelegram, h2, if_false]
      exact (padTo_append_of_le _ _ (by omega)).symm

/-! ### The quantizer's arithmetic -/

/-- from_register is division with remainder by 25600 (rule R96). -/
theorem fromRegister_spec (n r : Nat) :
    25600 * (fromRegister n r).1 + (fromRegister n r).2 = n * r ∧ (fromRegister n r).2 < 25600 := by
  simp only [fromRegister, Config.fullScale]
  omega

/-- to_register is defined exactly on the range of rule R92. -/
theorem toRegister_eq_none (v n : Nat) : toRegister v n = none ↔ n = 0 ∨ n < v := by
  unfold toRegister
  split
  · simp [*]
  · simp only [*, iff_false]
    repeat' split
    all_goals simp

/-! ### The form of every command's next state -/

/-- Every command answers a next state and leaves the host's side alone. -/
theorem exec_next (i : Instr) (s : State) : ∃ t, exec i s = .next t ∧ t.port = s.port ∧ t.reads = s.reads := by
  cases i <;> try exact ⟨_, rfl, rfl, rfl⟩
  simp only [exec, execQToreg]
  split <;> exact ⟨_, rfl, rfl, rfl⟩

/-- Every command acts the same whatever the host has yet to present. -/
theorem exec_setPort (i : Instr) (s t : State) (p : List HostAction) (h : exec i s = .next t) :
    exec i (s.setPort p) = .next (t.setPort p) := by
  cases i <;> try (cases h; rfl)
  · simp only [exec, execQToreg, State.setPort_quant] at h ⊢
    cases hr : toRegister s.quant.qv.toNat s.quant.qn.toNat <;> rw [hr] at h <;> cases h <;> rfl

/-- What Q_TOREG does, by whether the value is in range (rule R95). -/
theorem execQToreg_cases (s : State) :
    ((s.quant.qn.toNat = 0 ∨ s.quant.qn.toNat < s.quant.qv.toNat) ∧
      execQToreg s = .next (s.setStatus (s.status.setQ .rangeError))) ∨
    ∃ r, toRegister s.quant.qv.toNat s.quant.qn.toNat = some r ∧
      execQToreg s = .next ((s.setQuant (s.quant.setQreg (.ofNat 16 r))).setStatus (s.status.setQ .ok)) := by
  unfold execQToreg
  cases h : toRegister s.quant.qv.toNat s.quant.qn.toNat with
  | none => exact .inl ⟨(toRegister_eq_none _ _).mp h, rfl⟩
  | some r => exact .inr ⟨r, rfl, rfl⟩

/-- Actions in sequence: the first part, then the rest. -/
theorem performAll_append (xs ys : List HostAction) (s t : State) (h : performAll xs s = .next t) :
    performAll (xs ++ ys) s = performAll ys t := by
  induction xs generalizing s with
  | nil => cases h; rfl
  | cons a xs ih =>
    simp only [performAll, List.cons_append] at h ⊢
    split at h
    · rename_i u hu; exact ih u h
    · cases h
    · cases h

end Sys2Proof.Machine
end

