-- ==== Sys2Proof/Laws/PerInstr.lean ====
section
/-! SUPPORT. Facts stated one constructor at a time. Family `OpcodeByte`: the word of a command carries the opcode byte of
its row of the opcode map (30_encoding.md rules R55, R63). -/

namespace Sys2Proof.Laws

/-- The opcode byte of a command's word is the opcode its row of rule R63 prints. -/
def OpcodeByte.Statement (i : Instr) : Prop :=
  ∃ r ∈ opcodeTable, r.mnemonic = i.mnemonic ∧ opcodeOf (encode i) = opcodeOf r.mtch

section
open List

theorem OpcodeByte.csClr : OpcodeByte.Statement .csClr :=
  ⟨opcodeTable[0], getElem_mem _, rfl, (opcodeOf_encodeN _).trans (by decide)⟩
theorem OpcodeByte.csAdd (b : Byte) : OpcodeByte.Statement (.csAdd b) :=
  ⟨opcodeTable[1], getElem_mem _, rfl, (opcodeOf_encodeB _ _).trans (by decide)⟩
theorem OpcodeByte.csChk (hi lo : Byte) : OpcodeByte.Statement (.csChk hi lo) :=
  ⟨opcodeTable[2], getElem_mem _, rfl, (opcodeOf_encodeW _ _ _).trans (by decide)⟩
theorem OpcodeByte.encHdr (tt : BitVec 2) (bc dir : BitVec 1) (node obj : Byte) :
    OpcodeByte.Statement (.encHdr tt bc dir node obj) :=
  ⟨opcodeTable[3], getElem_mem _, rfl, (opcodeOf_encodeH _ _ _ _ _ _).trans (by decide)⟩
theorem OpcodeByte.encPush (b : Byte) : OpcodeByte.Statement (.encPush b) :=
  ⟨opcodeTable[4], getElem_mem _, rfl, (opcodeOf_encodeB _ _).trans (by decide)⟩
theorem OpcodeByte.encEnd : OpcodeByte.Statement .encEnd :=
  ⟨opcodeTable[5], getElem_mem _, rfl, (opcodeOf_encodeN _).trans (by decide)⟩
theorem OpcodeByte.decClr : OpcodeByte.Statement .decClr :=
  ⟨opcodeTable[6], getElem_mem _, rfl, (opcodeOf_encodeN _).trans (by decide)⟩
theorem OpcodeByte.decPush (b : Byte) : OpcodeByte.Statement (.decPush b) :=
  ⟨opcodeTable[7], getElem_mem _, rfl, (opcodeOf_encodeB _ _).trans (by decide)⟩
theorem OpcodeByte.decEnd : OpcodeByte.Statement .decEnd :=
  ⟨opcodeTable[8], getElem_mem _, rfl, (opcodeOf_encodeN _).trans (by decide)⟩
theorem OpcodeByte.qLdv (imm : BitVec 24) : OpcodeByte.Statement (.qLdv imm) :=
  ⟨opcodeTable[9], getElem_mem _, rfl, (opcodeOf_encodeI _ _).trans (by decide)⟩
theorem OpcodeByte.qLdn (imm : BitVec 24) : OpcodeByte.Statement (.qLdn imm) :=
  ⟨opcodeTable[10], getElem_mem _, rfl, (opcodeOf_encodeI _ _).trans (by decide)⟩
theorem OpcodeByte.qToreg : OpcodeByte.Statement .qToreg :=
  ⟨opcodeTable[11], getElem_mem _, rfl, (opcodeOf_encodeN _).trans (by decide)⟩
theorem OpcodeByte.qFrom16 (hi lo : Byte) : OpcodeByte.Statement (.qFrom16 hi lo) :=
  ⟨opcodeTable[12], getElem_mem _, rfl, (opcodeOf_encodeW _ _ _).trans (by decide)⟩
theorem OpcodeByte.qFrom8 (hi : Byte) : OpcodeByte.Statement (.qFrom8 hi) :=
  ⟨opcodeTable[13], getElem_mem _, rfl, (opcodeOf_encodeB _ _).trans (by decide)⟩
theorem OpcodeByte.stClr : OpcodeByte.Statement .stClr :=
  ⟨opcodeTable[14], getElem_mem _, rfl, (opcodeOf_encodeN _).trans (by decide)⟩

end

end Sys2Proof.Laws
end

