-- ==== Sys2Proof/Tests/Slice0.lean ====
section
/-! SUPPORT. The model's own tests, each value from spec/ (the rule or the vector is named), and for every statement with
hypotheses a state and operands that meet them. -/

namespace Sys2Proof.Tests

open Sys2Proof Sys2Proof.Machine

/-! ### Helpers -/

/-- What `f` reads from the next state, none if the step stops. -/
def after {α : Type} (o : Host.Outcome State Fault Refusal) (f : State → α) : Option α :=
  match o with
  | .next t => some (f t)
  | .fault _ => none
  | .refused _ => none

/-- The block after reset with these payload bytes pushed. -/
def withPayload (bs : List Byte) : State := State.reset.setTxPay (payloadOf bs)

/-- The block after reset with these stream bytes pushed. -/
def withStream (bs : List Byte) : State := State.reset.setRx (streamOf bs)

/-- The block after reset with QV and QN loaded. -/
def withRatio (v n : BitVec 24) : State := State.reset.setQuant ((Quantizer.zero.setQv v).setQn n)

/-! ### WellFormed: an ill-formed term for each check of rule R67, and the largest operand each admits -/

theorem test_wf_csAdd : (AsmLine.csAdd 256).wellFormed = false ∧ (AsmLine.csAdd 255).wellFormed = true := by decide
theorem test_wf_csChk_hi : (AsmLine.csChk 256 0).wellFormed = false := by decide
theorem test_wf_csChk_lo : (AsmLine.csChk 255 256).wellFormed = false := by decide
theorem test_wf_encHdr_tt : (AsmLine.encHdr 4 0 0 0 0).wellFormed = false := by decide
theorem test_wf_encHdr_bc : (AsmLine.encHdr 3 2 0 0 0).wellFormed = false := by decide
theorem test_wf_encHdr_dir : (AsmLine.encHdr 3 1 2 0 0).wellFormed = false := by decide
theorem test_wf_encHdr_node : (AsmLine.encHdr 3 1 1 256 0).wellFormed = false := by decide
theorem test_wf_encHdr_obj : (AsmLine.encHdr 3 1 1 255 256).wellFormed = false := by decide
theorem test_wf_encHdr : (AsmLine.encHdr 3 1 1 255 255).wellFormed = true := by decide
theorem test_wf_encPush : (AsmLine.encPush 256).wellFormed = false := by decide
theorem test_wf_decPush : (AsmLine.decPush 256).wellFormed = false := by decide
theorem test_wf_qLdv : (AsmLine.qLdv 16777216).wellFormed = false := by decide
theorem test_wf_qLdn : (AsmLine.qLdn 16777216).wellFormed = false ∧ (AsmLine.qLdn 16777215).wellFormed = true := by decide
theorem test_wf_qFrom16_hi : (AsmLine.qFrom16 256 0).wellFormed = false := by decide
theorem test_wf_qFrom16_lo : (AsmLine.qFrom16 0 256).wellFormed = false := by decide
theorem test_wf_qFrom8 : (AsmLine.qFrom8 256).wellFormed = false := by decide

/-! ### Decoding: a word of every row, bit by bit from the patterns of rules R57 to R63 -/

theorem test_decode_csClr : decode 0b00010000000000000000000000000000#32 = .ok .csClr := by decide
theorem test_decode_csAdd : decode 0b00010001000000000000000010000001#32 = .ok (.csAdd 0x81) := by decide
theorem test_decode_csChk : decode 0b00010010000000000000000101100101#32 = .ok (.csChk 0x01 0x65) := by decide
theorem test_decode_encHdr : decode 0b00100000100100000000000100110011#32 = .ok (.encHdr 2 0 1 1 0x33) := by decide
theorem test_decode_encHdr_bc : decode 0b00100000011000001000000000000010#32 = .ok (.encHdr 1 1 0 0x80 2) := by decide
theorem test_decode_encPush : decode 0b00100001000000000000000000110010#32 = .ok (.encPush 0x32) := by decide
theorem test_decode_encEnd : decode 0b00100010000000000000000000000000#32 = .ok .encEnd := by decide
theorem test_decode_decClr : decode 0b00110000000000000000000000000000#32 = .ok .decClr := by decide
theorem test_decode_decPush : decode 0b00110001000000000000000001100101#32 = .ok (.decPush 0x65) := by decide
theorem test_decode_decEnd : decode 0b00110010000000000000000000000000#32 = .ok .decEnd := by decide
theorem test_decode_qLdv : decode 0b01000000000000000101001000001000#32 = .ok (.qLdv 21000) := by decide
theorem test_decode_qLdn : decode 0b01000001000000001010010000010000#32 = .ok (.qLdn 42000) := by decide
theorem test_decode_qToreg : decode 0b01000010000000000000000000000000#32 = .ok .qToreg := by decide
theorem test_decode_qFrom16 : decode 0b01000011000000000010000101010101#32 = .ok (.qFrom16 0x21 0x55) := by decide
theorem test_decode_qFrom8 : decode 0b01000100000000000000000000110011#32 = .ok (.qFrom8 0x33) := by decide
theorem test_decode_stClr : decode 0b11110000000000000000000000000000#32 = .ok .stClr := by decide
/-- T-ILL-1, T-ILL-2, T-ILL-7. -/
theorem test_decode_reserved : [0x00000000#32, 0x13000000#32, 0xFFFFFFFF#32].map decode =
    [.error .reservedOpcode, .error .reservedOpcode, .error .reservedOpcode] := by decide
/-- T-ILL-3 to T-ILL-6, T-ILL-8, T-ILL-9. -/
theorem test_decode_reservedBits :
    [0x22000001#32, 0x20010032#32, 0x10000100#32, 0x110001FF#32, 0xF0000001#32, 0x42800000#32].map decode =
      List.replicate 6 (.error .reservedBits) := by decide
/-- The edge words of section 2.1, in both readings of the encoding. -/
theorem test_decode_edges :
    [0x110000FF#32, 0x1200FFFF#32, 0x20F0FFFF#32, 0x40FFFFFF#32, 0x4300FFFF#32, 0x440000FF#32].map decodeByTable =
      [some (.csAdd 255), some (.csChk 255 255), some (.encHdr 3 1 1 255 255), some (.qLdv 16777215),
       some (.qFrom16 255 255), some (.qFrom8 255)] := by decide
/-- A longer table word is no command (log entry 4). -/
theorem test_decodeTableWord : decodeTableWord 32 0x110000FF = some (.csAdd 255) ∧ decodeTableWord 40 0x110000FF = none ∧
    decodeTableWord 8 0x110000FF = none := by decide

/-! ### Assembler text (rule R67, program P1) -/

theorem test_asm_text : Asm.assembleText "Q_LDN 42000 ; nominal\nENC_HDR 2, 0, 1, 1, 0x33\n\nENC_END" =
    some [0x4100A410#32, 0x20900133#32, 0x22000000#32] := by decide
theorem test_asm_refuses : Asm.assembleText "CS_ADD 256" = none ∧ Asm.assembleText "CS_ADD 1, 2" = none ∧
    Asm.assembleText "CS_SUB 1" = none := by decide

/-- A pseudo-instruction line is refused (log entry 10). -/
theorem test_asm_refuses_pseudo : Asm.assembleText "TOREG 21000, 42000" = none := by decide

/-! ### Commands -/

/-- T-CS-9. -/
theorem test_csClr : after (exec .csClr ((State.reset.setCsum 0x65).setStatus (Status.clear.setCsMatch true)))
    (fun t => (t.csum, hostRead t 0)) = some (0, 0) := by decide
/-- R88's corner: 0xFFF0 + 0xFF. -/
theorem test_csAdd_wrap : after (exec (.csAdd 0xFF) (State.reset.setCsum 0xFFF0)) (·.csum) = some 0x00EF := by decide
/-- T-CS-10. -/
theorem test_csAdd_keeps_match : after (exec (.csAdd 0) ((State.reset.setCsum 0x65).setStatus (Status.clear.setCsMatch true)))
    (fun t => (t.csum, hostRead t 0)) = some (0x65, 0x40) := by decide
/-- T-CS-2. -/
theorem test_csChk : after (exec (.csChk 0x00 0x65) (State.reset.setCsum 0x65)) (hostRead · 0) = some 0x40 := by decide
/-- T-CS-3. -/
theorem test_csChk_swapped : after (exec (.csChk 0x65 0x00) (State.reset.setCsum 0x65)) (hostRead · 0) = some 0 := by decide
/-- T-ENC-10's TX_HDR. -/
theorem test_encHdr : after (exec (.encHdr 1 0 0 2 51) (withPayload [0x32, 0])) (fun t => (hostRead t 3, hostRead t 2))
    = some (0x00400233, 0) := by decide
/-- R72's example. -/
theorem test_encPush : after (exec (.encPush 0x32) State.reset) (fun t => (hostRead t 0x40, hostRead t 2)) = some (0x32, 1) := by
  decide
/-- T-ENC-8's TX_CTL before ENC_END. -/
theorem test_encPush_overflow : after (exec (.encPush 0x11) (withPayload (List.replicate 16 0x11))) (hostRead · 2)
    = some 0x30 := by decide
/-- T-ENC-5. -/
theorem test_encEnd : after (exec .encEnd ((withPayload [0x64, 0x00]).setTxHdr ⟨2, 0, 1, 1, 51⟩))
    (fun t => (t.txOut.telegram, hostRead t 2, hostRead t 0))
    = some ([0x91, 0x01, 0x33, 0x64, 0x00, 0x01, 0x29], 0x702, 1) := by decide
/-- T-ENC-7. -/
theorem test_encEnd_empty : after (exec .encEnd (State.reset.setTxOut ⟨padTo 21 [1, 2, 3], 7⟩))
    (fun t => (t.txOut, hostRead t 0)) = some (TxFrame.empty, 2) := by decide
/-- R76's example. -/
theorem test_decClr : after (exec .decClr (withStream [1])) (fun t => (hostRead t 4, hostRead t 0x50)) = some (0, 0) := by decide
/-- Section 2.4's stream trace, the third push. -/
theorem test_decPush : after (exec (.decPush 0x32) (withStream [0x01, 0x00]))
    (fun t => (hostRead t 4, hostRead t 5, hostRead t 0x52)) = some (0x00030032, 0x0001, 0x32) := by decide
/-- RX_N saturates (rule R77) while the sum goes on. -/
theorem test_decPush_saturates : after (exec (.decPush 9) (State.reset.setRx ⟨255, 0xFFFF, 2, 3, padTo 21 []⟩))
    (fun t => (hostRead t 4, hostRead t 5)) = some (0x00FF0309, 1) := by decide
/-- T-DEC-14. -/
theorem test_decEnd : after (exec .decEnd (withStream [0x91, 0x01, 0x33, 0x64, 0x00, 0x01, 0x29]))
    (fun t => (hostRead t 0, hostRead t 6, hostRead t 0xC, t.rxOut.payload, t.rx))
    = some (0x04, 0x02910133, 0x902, [0x64, 0x00], RxStream.empty) := by decide
/-- T-DEC-17: the checksum is judged before the length. -/
theorem test_decEnd_checksum_first : after (exec .decEnd (withStream [0, 0, 0x32, 0x32, 0, 0, 0x66])) (hostRead · 0)
    = some 0x08 := by decide
/-- R93's example. -/
theorem test_qLdv : after (exec (.qLdv 21000) State.reset) (fun t => (hostRead t 7, hostRead t 8)) = some (21000, 0) := by decide
/-- R94's example. -/
theorem test_qLdn : after (exec (.qLdn 42000) State.reset) (fun t => (hostRead t 7, hostRead t 8)) = some (0, 42000) := by decide
/-- T-Q-9: a tie goes to the even neighbour below. -/
theorem test_qToreg_tie : after (exec .qToreg (withRatio 5 51200)) (fun t => (hostRead t 9, hostRead t 0)) = some (2, 0x10) := by
  decide
/-- T-Q-4. -/
theorem test_qToreg_range : after (exec .qToreg (withRatio 42001 42000)) (fun t => (hostRead t 9, hostRead t 0))
    = some (0, 0x20) := by decide
/-- T-QF-3. -/
theorem test_qFrom16 : after (exec (.qFrom16 0xFF 0xFF) (withRatio 0 42000)) (fun t => (hostRead t 0xA, hostRead t 0xB))
    = some (107518, 9200) := by decide
/-- T-QF-11. -/
theorem test_qFrom8 : after (exec (.qFrom8 0xFF) (withRatio 0 42000)) (fun t => (hostRead t 0xA, hostRead t 0xB))
    = some (107100, 0) := by decide
/-- T-ST-1. -/
theorem test_stClr : after (exec .stClr (State.reset.setStatus ⟨.lengthError, .lengthMismatch, .none, false, true⟩))
    (hostRead · 0) = some 0 := by decide
/-- The STATUS layout of T-ST-1's start. -/
theorem test_status_byte : (Status.mk .lengthError .lengthMismatch .none false true).toByte = 0x8E := by decide
/-- R104's example. -/
theorem test_illegal : after (acceptWord 0x13000000 State.reset) (hostRead · 0) = some 0x80 := by decide
/-- R123, T-RD-2. -/
theorem test_reset_reads : (hostRead State.reset 0x00, hostRead State.reset 0x02, hostRead State.reset 0x06,
    hostRead State.reset 0x0C) = (0, 0, 0, 1) := by decide
/-- The placed word runs in the very next step (log entry 3). -/
theorem test_withFetchWord : after (step (State.reset.withFetchWord 32 0x40005208)) (fun t => (t.quant.qv, t.port))
    = some (21000, []) := by decide
/-- Rule R122: reset is a step of its own. -/
theorem test_reset_step : after (step ((State.reset.setCsum 7).setPort [.reset, .read 1])) (fun t => (t.csum, t.port))
    = some (0, [.read 1]) := by decide

/-! ### Hypotheses met: one witness for each statement that has any, at its boundaries -/

theorem witness_EncodeOfDecodeIsTheWord : decode 0x20F0FFFF#32 = .ok (.encHdr 3 1 1 255 255) := by decide

theorem witness_AssemblerNeverTruncates :
    (AsmLine.encHdr 3 1 1 255 255).wellFormed = true ∧ (AsmLine.encHdr 4 1 1 255 255).wellFormed = false := by decide

theorem witness_StepRunsTheDecodedCommand :
    (State.reset.setPort [.command 0x110000FF]).port = .command 0x110000FF :: [] ∧
    decode 0x110000FF#32 = .ok (.csAdd 255) ∧
    (State.reset.setPort [.command 0x22000001]).port = .command 0x22000001 :: [] ∧
    decode 0x22000001#32 = .error .reservedBits := by decide

theorem witness_ReadActionHasNoSideEffect :
    (State.reset.setPort [.read 0xFF, .reset]).port = .read 0xFF :: [.reset] := by decide

theorem witness_IdleHoldsAndResetIsAStep : (State.reset.setCsum 7).port = [] ∧
    ((State.reset.setCsum 7).setPort [.reset]).port = .reset :: [] := by decide

/-- Every buffer's ends, and that no address lies both in a buffer and in a hole. -/
theorem witness_ReadPortFollowsTheRegisterMap :
    (∀ k, k < 21 → ¬ (0x35 ≤ 0x20 + k ∧ 0x20 + k ≤ 0x3F)) ∧ (∀ k, k < 21 → ¬ (0x65 ≤ 0x50 + k)) ∧
    (∀ k, k < 16 → 0x40 + k ≤ 0x4F ∧ 0x70 + k < 0x80) ∧
    [0x0D, 0x1F, 0x35, 0x3F, 0x65, 0x6F, 0x80, 0xFF].map (fun a => hostRead (withStream (List.replicate 21 0xFF)) a)
      = List.replicate 8 0 ∧
    hostRead (withStream (List.replicate 21 0xFF)) 0x64 = 0xFF := by decide

theorem witness_ChecksumDependsOnTheSumAlone : [1#8, 2#8].Perm [2#8, 1#8] ∧
    (1#8).toNat + (255#8).toNat = (2#8).toNat + (254#8).toNat := ⟨List.Perm.swap _ _ _, by decide⟩

theorem witness_StartDelimiterLayout : (1 ≤ 1 ∧ 1 ≤ 16) ∧ 1 ≤ 16 ∧ 16 ≤ 16 := by decide

theorem witness_EncPushAppendsOrOverflows : (withPayload (List.replicate 15 1)).txPay.cnt.toNat < 16 ∧
    16 ≤ (withPayload (List.replicate 16 1)).txPay.cnt.toNat := by decide

theorem witness_EncEndBuildsTheTelegram : State.reset.txPay.cnt = 0 ∧
    (withPayload (List.replicate 17 1)).txPay.ovf = true ∧
    ((withPayload [1]).txPay.ovf = false ∧ (withPayload [1]).txPay.cnt ≠ 0 ∧ (withPayload [1]).txPay.cnt.toNat ≤ 16) ∧
    (withPayload (List.replicate 16 1)).txPay.ovf = false ∧ (withPayload (List.replicate 16 1)).txPay.cnt ≠ 0 ∧
    (withPayload (List.replicate 16 1)).txPay.cnt.toNat ≤ 16 := by decide

/-- The lengths at which Encode fails and the ends of its range. -/
theorem witness_EncodeSequenceIsEncode : (1 ≤ [7#8].length ∧ [7#8].length ≤ 16) ∧
    (1 ≤ (List.replicate 16 7#8).length ∧ (List.replicate 16 7#8).length ≤ 16) ∧
    encodeTelegram 0 0 0 0 0 [] = none ∧ encodeTelegram 0 0 0 0 0 (List.replicate 17 7) = none := by decide

/-- T-ENC-3 and T-DEC-15. -/
theorem witness_TelegramChecksumNeverWraps :
    encodeTelegram 3 1 1 1 0x47 [0xAB] = some [0xF0, 0x01, 0x47, 0xAB, 0x01, 0xE3] ∧
    decodeTelegram [0xF0, 0x01, 0x47, 0xAB, 0x01, 0xE3] = .ok 0xF0 0x01 0x47 [0xAB] := by decide

theorem witness_TelegramSurvivesEverythingButEncEnd :
    ∀ a ∈ [HostAction.command 0xF0000000, .read 0x20, .command 0x22000001],
      a ≠ .reset ∧ ∀ w, a = .command w → decode w ≠ .ok .encEnd := by
  intro a ha
  have h1 : decode 0xF0000000 ≠ .ok .encEnd := by decide
  have h2 : decode 0x22000001 ≠ .ok .encEnd := by decide
  simp only [List.mem_cons, List.not_mem_nil, or_false] at ha
  rcases ha with rfl | rfl | rfl
  · exact ⟨nofun, fun w hw => by cases hw; exact h1⟩
  · exact ⟨nofun, nofun⟩
  · exact ⟨nofun, fun w hw => by cases hw; exact h2⟩

theorem witness_StreamHoldsThePushedBytes : (State.reset.setCsum 7).rx = RxStream.empty := by decide

/-- T-DEC-5, T-DEC-7, T-DEC-6, T-DEC-15: each clause at the least stream length it covers. -/
theorem witness_DecEndJudgesTheStream :
    (withStream [1]).rx.n.toNat < 2 ∧
    (2 ≤ (withStream [0, 1]).rx.n.toNat ∧
      ¬ (withStream [0, 1]).rx.sum.toNat = (withStream [0, 1]).rx.w1.toNat * 256 + (withStream [0, 1]).rx.w0.toNat) ∧
    (2 ≤ (withStream [0, 0]).rx.n.toNat ∧
      (withStream [0, 0]).rx.sum.toNat = (withStream [0, 0]).rx.w1.toNat * 256 + (withStream [0, 0]).rx.w0.toNat ∧
      0 ≠ (byteAt (withStream [0, 0]).rx.raw 0).toNat % 16 + 1) ∧
    2 ≤ (withStream [0xF0, 1, 0x47, 0xAB, 1, 0xE3]).rx.n.toNat ∧
    (withStream [0xF0, 1, 0x47, 0xAB, 1, 0xE3]).rx.sum.toNat = 1 * 256 + 0xE3 ∧
    (withStream [0xF0, 1, 0x47, 0xAB, 1, 0xE3]).rx.n.toNat - 5
      = (byteAt (withStream [0xF0, 1, 0x47, 0xAB, 1, 0xE3]).rx.raw 0).toNat % 16 + 1 ∧
    after (exec .decEnd (withStream [1])) (·.status.dec) ≠ some .ok := by decide

theorem witness_DecodeSequenceIsDecode : (decodeTelegram [0xF0, 0x01, 0x47, 0xAB, 0x01, 0xE3]).stat = .ok ∧
    (decodeTelegram [0x00, 0x01]).stat ≠ .ok := by decide

theorem witness_TelegramRoundTrip : (1 ≤ [7#8].length ∧ [7#8].length ≤ 16) ∧
    1 ≤ (List.replicate 16 7#8).length ∧ (List.replicate 16 7#8).length ≤ 16 := by decide

/-- The first bit of the delimiter and the last bit of the trailer. -/
theorem witness_SingleBitFlipIsAChecksumMismatch : (1 ≤ [7#8].length ∧ [7#8].length ≤ 16 ∧ 0 < [7#8].length + 5 ∧ 0 < 8) ∧
    1 ≤ (List.replicate 16 7#8).length ∧ (List.replicate 16 7#8).length ≤ 16 ∧
    20 < (List.replicate 16 7#8).length + 5 ∧ 7 < 8 := by decide

theorem witness_TruncatedTelegramIsNeverAccepted :
    encodeTelegram 3 1 1 1 0x47 [0xAB] = some [0xF0, 0x01, 0x47, 0xAB, 0x01, 0xE3] ∧
    0 < [0xF0#8, 0x01, 0x47, 0xAB, 0x01, 0xE3].length ∧ 5 < [0xF0#8, 0x01, 0x47, 0xAB, 0x01, 0xE3].length := by decide

theorem witness_ToRegisterRoundsHalfToEven : toRegister 3 51200 = some 2 ∧ toRegister 1 0 = none := by decide

/-- QN = 0, QV = QN + 1 and QV = QN. -/
theorem witness_ToregQuantizesOrRangeError : (withRatio 5 0).quant.qn = 0 ∧
    (withRatio 42001 42000).quant.qn.toNat < (withRatio 42001 42000).quant.qv.toNat ∧
    (withRatio 42000 42000).quant.qn ≠ 0 ∧ (withRatio 42000 42000).quant.qv.toNat ≤ (withRatio 42000 42000).quant.qn.toNat := by
  decide

theorem witness_QuantizerRoundTripBound : 1 ≤ (1#24).toNat ∧ (1#24).toNat ≤ (1#24).toNat ∧ 1 ≤ (3#24).toNat ∧
    (1#24).toNat ≤ (3#24).toNat := by decide

theorem witness_IllegalWordSetsStickyIll : decodeByTable 0x22000001 = none ∧
    (State.reset.takeIllegal).status.ill = true ∧
    after (performAction (.command 0x10000000) State.reset.takeIllegal) (·.status.ill) = some true := by decide

theorem witness_CommandsWriteOnlyTheirWriteSet :
    Elem.qreg ∈ writeSet .qToreg (Status.clear.setQ .ok) ∧ Elem.qreg ∉ writeSet .qToreg Status.clear ∧
    decode 0x13000000#32 = .error .reservedOpcode := by decide

theorem witness_UnitsDoNotDisturbEachOther : (∀ i ∈ [Instr.encPush 1, .decPush 2, .encEnd], instrPart i ≠ .status) ∧
    Part.encoder ≠ .status := by decide

/-- A state with a payload and a stream held, inside the invariant, and the step that follows. -/
theorem witness_StepKeepsTheInvariant : Inv ((withPayload [1, 2]).setRx (streamOf [3])) ∧
    step ((withPayload [1, 2]).setRx (streamOf [3])) = .next ((withPayload [1, 2]).setRx (streamOf [3])) := by
  refine ⟨?_, rfl⟩
  exact
    { txPay := ⟨_, rfl⟩
      txLen := .inl rfl
      txTail := fun k _ => by
        by_cases h : k < 21
        · rw [byteAt_of_lt _ h]; simp [withPayload, State.reset, TxFrame.empty]
        · exact byteAt_of_le _ (by omega)
      txValid := fun h => absurd rfl h
      encError := nofun
      encOk := nofun
      rxStream := ⟨_, rfl⟩
      rxPlen := by decide
      rxTail := fun k _ => by
        by_cases h : k < 16
        · rw [byteAt_of_lt _ h]; simp [withPayload, State.reset, RxFrame.empty]
        · exact byteAt_of_le _ (by omega)
      rxDeclared := fun h => absurd rfl h
      rxOk := nofun
      qreg := by decide
      qpFrac := by decide }

theorem witness_NoTelegramWithoutOkVerdict : performAll [.command 0xF0000000] State.reset = .next State.reset ∧
    State.reset.status.enc ≠ .ok := ⟨rfl, by decide⟩

/-- The end of a run of R73's example, its verdict OK, and the next action a command that is not ST_CLR; and a state with
no telegram and no verdict. -/
theorem witness_OnlyStClrPartsTelegramFromItsVerdict :
    let s := ((State.reset.setTxOut ⟨padTo 21 [1, 0, 0x32, 0x32, 0, 0, 0x65], 7⟩).setStatus
      (Status.clear.setEnc .ok)).setPort [.command 0x30000000]
    (s.status.enc ≠ .ok → s.txOut.len.toNat = 0) ∧ s.port.head? ≠ some (.command 0xF0000000) ∧
    step s = .next (s.setPort []) ∧ step State.reset = .next State.reset ∧ State.reset.status.enc ≠ .ok ∧
    State.reset.port.head? ≠ some (.command 0xF0000000) :=
  ⟨fun h => absurd rfl h, by decide, rfl, rfl, by decide, by decide⟩

/-- T-ST-2, the state in which R33's clause and R103 part: ST_CLR clears the verdict and keeps the telegram's length. -/
theorem test_stClr_keeps_telegram : after (exec .stClr (((withPayload [0x32, 0]).setTxOut ⟨padTo 21 [1, 0, 0x32, 0x32, 0, 0, 0x65], 7⟩).setStatus
    (Status.clear.setEnc .ok))) (fun t => (hostRead t 0, hostRead t 2, hostRead t 0x26)) = some (0, 0x702, 0x65) := by decide

end Sys2Proof.Tests
end

/-! PROOFS of the statements about the state (10_state.md): what one host action can do, what a command does to STATUS,
the write set of each command, and the invariant of every run. -/

namespace Sys2Proof.Machine

/-! ### One host action, one step, one run -/

/-- An illegal word has the one effect of rule R104, whatever makes it illegal. -/
theorem acceptWord_of_error {w : Word} {e : IllegalWord} (h : decode w = .error e) (s : State) :
    acceptWord w s = .next s.takeIllegal := by
  rw [acceptWord, h]

/-- The word of a command runs the command (rule R56). -/
theorem acceptWord_of_ok {w : Word} {i : Instr} (h : decode w = .ok i) (s : State) : acceptWord w s = exec i s := by
  rw [acceptWord, h]

/-- What a host action does: a command's effect, ILL for an illegal word, one more value read, or reset (rule R132). -/
theorem performAction_cases {a : HostAction} {s t : State} (h : performAction a s = .next t) :
    (∃ w i, a = .command w ∧ decode w = .ok i ∧ exec i s = .next t) ∨
    (∃ w e, a = .command w ∧ decode w = .error e ∧ t = s.takeIllegal) ∨
    (∃ adr, a = .read adr ∧ t = s.observe adr) ∨
    (a = .reset ∧ t = s.applyReset) := by
  cases a with
  | command w =>
    rw [performAction] at h
    cases hd : decode w with
    | ok i => rw [acceptWord_of_ok hd] at h; exact .inl ⟨w, i, rfl, hd, h⟩
    | error e => rw [acceptWord_of_error hd] at h; cases h; exact .inr (.inl ⟨w, e, rfl, hd, rfl⟩)
  | read adr => cases h; exact .inr (.inr (.inl ⟨adr, rfl, rfl⟩))
  | reset => cases h; exact .inr (.inr (.inr ⟨rfl, rfl⟩))

/-- Every host action answers a next state (rule R129). -/
theorem performAction_next (a : HostAction) (s : State) : ∃ t, performAction a s = .next t := by
  cases a with
  | command w =>
    cases hd : decode w with
    | ok i =>
      obtain ⟨t, ht, -⟩ := exec_next i s
      exact ⟨t, (acceptWord_of_ok hd s).trans ht⟩
    | error e => exact ⟨_, acceptWord_of_error hd s⟩
  | read adr => exact ⟨_, rfl⟩
  | reset => exact ⟨_, rfl⟩

/-- A step is the idle step, or the oldest pending action, taken from the port. -/
theorem step_cases {s t : State} (h : step s = .next t) :
    (s.port = [] ∧ t = s) ∨
    ∃ a rest, s.port = a :: rest ∧ performAction a (s.setPort rest) = .next t := by
  simp only [step, serveHost] at h
  cases hp : s.port with
  | nil => rw [hp] at h; cases h; exact .inl ⟨rfl, rfl⟩
  | cons a rest => rw [hp] at h; exact .inr ⟨a, rest, rfl, h⟩

/-- What every host action keeps holds at the end of every sequence of them, and the sequence completes. -/
theorem performAll_keeps {P : State → Prop}
    (hP : ∀ (a : HostAction) (s t : State), P s → performAction a s = .next t → P t)
    (acts : List HostAction) (s : State) (hs : P s) : ∃ t, performAll acts s = .next t ∧ P t := by
  induction acts generalizing s with
  | nil => exact ⟨s, rfl, hs⟩
  | cons a rest ih =>
    obtain ⟨u, hu⟩ := performAction_next a s
    obtain ⟨t, ht, hPt⟩ := ih u (hP a s u hs hu)
    exact ⟨t, by rw [performAll, hu]; exact ht, hPt⟩

/-! ### What a word decodes to -/

section Formats
variable {w : Word} {j : Instr}

/-! When each format's decoder answers a command, and which (rules R57 to R62). -/

theorem decodeN_eq_ok {i : Instr} : decodeN i w = .ok j ↔ w.extractLsb' 0 24 = 0#24 ∧ j = i := by
  rw [decodeN]; split <;> simp [*, eq_comm (a := j)]

theorem decodeB_eq_ok {mk : Byte → Instr} :
    decodeB mk w = .ok j ↔ w.extractLsb' 8 16 = 0#16 ∧ j = mk (lowByte w) := by
  rw [decodeB]; split <;> simp [*, eq_comm (a := j)]

theorem decodeW_eq_ok {mk : Byte → Byte → Instr} :
    decodeW mk w = .ok j ↔ w.extractLsb' 16 8 = 0#8 ∧ j = mk (secondByte w) (lowByte w) := by
  rw [decodeW]; split <;> simp [*, eq_comm (a := j)]

theorem decodeH_eq_ok {mk : BitVec 2 → BitVec 1 → BitVec 1 → Byte → Byte → Instr} :
    decodeH mk w = .ok j ↔ w.extractLsb' 16 4 = 0#4 ∧
      j = mk (w.extractLsb' 22 2) (w.extractLsb' 21 1) (w.extractLsb' 20 1) (secondByte w) (lowByte w) := by
  rw [decodeH]; split <;> simp [*, eq_comm (a := j)]

theorem decodeI_eq_ok {mk : BitVec 24 → Instr} : decodeI mk w = .ok j ↔ j = mk (w.extractLsb' 0 24) := by
  rw [decodeI, Except.ok.injEq, eq_comm]

end Formats

/-- The one word of ST_CLR (rules R57, R63). -/
theorem eq_of_decode_eq_stClr {w : Word} (h : decode w = .ok .stClr) : w = 0xF0000000 := by
  unfold decode at h
  split at h <;> simp only [decodeN_eq_ok, decodeB_eq_ok, decodeW_eq_ok, decodeH_eq_ok, decodeI_eq_ok, reduceCtorEq,
    and_false, and_true] at h
  rename_i hop
  rw [opcodeOf, toNat_extract] at hop
  have hlow := congrArg BitVec.toNat h
  rw [toNat_extract, BitVec.toNat_ofNat] at hlow
  apply BitVec.eq_of_toNat_eq
  change w.toNat = 0xF0000000
  omega

/-! ### What a command does to STATUS -/

/-- Q_TOREG's verdict (rule R95): RANGE_ERROR where `toRegister` has no value. -/
def Quantizer.verdict (q : Quantizer) : QStat :=
  match toRegister q.qv.toNat q.qn.toNat with
  | some _ => .ok
  | none => .rangeError

/-- The quantizer after Q_TOREG (rule R95): QREG takes the register, or keeps its value where there is none. -/
def Quantizer.quantized (q : Quantizer) : Quantizer :=
  match toRegister q.qv.toNat q.qn.toNat with
  | some r => q.setQreg (.ofNat 16 r)
  | none => q

/-- Q_TOREG, its two outcomes in one form. -/
theorem execQToreg_eq (s : State) :
    execQToreg s = .next ((s.setQuant s.quant.quantized).setStatus (s.status.setQ s.quant.verdict)) := by
  rw [execQToreg, Quantizer.quantized, Quantizer.verdict]
  cases toRegister s.quant.qv.toNat s.quant.qn.toNat with
  | none => rfl
  | some r => rfl

/-- The new STATUS of a command, as a function of the old STATUS and of the elements its verdict is taken from. -/
def verdictUpdate (i : Instr) (s : State) (v : Status) : Status :=
  match i with
  | .csClr => v.setCsMatch false
  | .csAdd _ => v
  | .csChk hi lo => v.setCsMatch (checksumMatches s.csum hi lo)
  | .encHdr _ _ _ _ _ => v
  | .encPush _ => v
  | .encEnd => v.setEnc s.txPay.verdict
  | .decClr => v
  | .decPush _ => v
  | .decEnd => v.setDec s.rx.verdict
  | .qLdv _ => v
  | .qLdn _ => v
  | .qToreg => v.setQ s.quant.verdict
  | .qFrom16 _ _ => v.setQ .ok
  | .qFrom8 _ => v.setQ .ok
  | .stClr => .clear

/-- `verdictUpdate` is what a command does to STATUS, and STATUS has no part in what it does elsewhere (rule R20). -/
theorem exec_setStatus {i : Instr} {s t : State} (h : exec i s = .next t) (v : Status) :
    t.status = verdictUpdate i s s.status ∧
    exec i (s.setStatus v) = .next (t.setStatus (verdictUpdate i s v)) := by
  cases i with
  | qToreg =>
    rw [exec, execQToreg_eq] at h ⊢
    cases h
    exact ⟨rfl, rfl⟩
  | _ => cases h; exact ⟨rfl, rfl⟩

/-- A field of STATUS after a command is the same for every old STATUS, or is the old one. -/
def AlikeOrKept {α : Type} (new old : Status → α) : Prop := ∀ v w, new v = new w ∨ new v = old v ∧ new w = old w

/-- Each field of `verdictUpdate` is a verdict that does not depend on STATUS, or the field as it was (rule R20). -/
theorem verdictUpdate_alikeOrKept (i : Instr) (s : State) :
    AlikeOrKept (fun v => (verdictUpdate i s v).enc) Status.enc ∧
    AlikeOrKept (fun v => (verdictUpdate i s v).dec) Status.dec ∧
    AlikeOrKept (fun v => (verdictUpdate i s v).q) Status.q ∧
    AlikeOrKept (fun v => (verdictUpdate i s v).csMatch) Status.csMatch ∧
    AlikeOrKept (fun v => (verdictUpdate i s v).ill) Status.ill := by
  cases i <;> simp [AlikeOrKept, verdictUpdate]

/-! ### Write sets -/

section OnlyWrites
variable {es fs : List Elem} {s t u : State}

theorem OnlyWrites.trans (hst : OnlyWrites es s t) (htu : OnlyWrites fs t u) : OnlyWrites (es ++ fs) s u := by
  obtain ⟨hv, hp, hr⟩ := hst
  obtain ⟨hv', hp', hr'⟩ := htu
  refine ⟨fun e he => ?_, hp'.trans hp, hr'.trans hr⟩
  rw [List.mem_append, not_or] at he
  exact (hv' e he.2).trans (hv e he.1)

theorem OnlyWrites.mono (h : OnlyWrites es s t) (hsub : es ⊆ fs) : OnlyWrites fs s t := by
  obtain ⟨hv, hp, hr⟩ := h
  exact ⟨fun e he => hv e fun hm => he (hsub hm), hp, hr⟩

end OnlyWrites

section NamedUpdates
variable (s : State)

theorem onlyWrites_setCsum (v : Half) : OnlyWrites [.csum] s (s.setCsum v) :=
  ⟨fun e he => by cases e <;> simp at he <;> rfl, rfl, rfl⟩

theorem onlyWrites_setTxHdr (v : TxHeader) : OnlyWrites [.txTt, .txBc, .txDir, .txNode, .txObj] s (s.setTxHdr v) :=
  ⟨fun e he => by cases e <;> simp at he <;> rfl, rfl, rfl⟩

theorem onlyWrites_setTxPay (v : TxPayload) : OnlyWrites [.txPay, .txCnt, .txOvf] s (s.setTxPay v) :=
  ⟨fun e he => by cases e <;> simp at he <;> rfl, rfl, rfl⟩

theorem onlyWrites_setTxOut (v : TxFrame) : OnlyWrites [.txBuf, .txLen] s (s.setTxOut v) :=
  ⟨fun e he => by cases e <;> simp at he <;> rfl, rfl, rfl⟩

theorem onlyWrites_setRx (v : RxStream) : OnlyWrites streamElems s (s.setRx v) :=
  ⟨fun e he => by cases e <;> simp [streamElems] at he <;> rfl, rfl, rfl⟩

theorem onlyWrites_setRxOut (v : RxFrame) :
    OnlyWrites [.rxDelim, .rxNode, .rxObj, .rxPlen, .rxPay] s (s.setRxOut v) :=
  ⟨fun e he => by cases e <;> simp at he <;> rfl, rfl, rfl⟩

theorem onlyWrites_setQv (v : BitVec 24) : OnlyWrites [.qv] s (s.setQuant (s.quant.setQv v)) :=
  ⟨fun e he => by cases e <;> simp at he <;> rfl, rfl, rfl⟩

theorem onlyWrites_setQn (v : BitVec 24) : OnlyWrites [.qn] s (s.setQuant (s.quant.setQn v)) :=
  ⟨fun e he => by cases e <;> simp at he <;> rfl, rfl, rfl⟩

theorem onlyWrites_setQreg (v : Half) : OnlyWrites [.qreg] s (s.setQuant (s.quant.setQreg v)) :=
  ⟨fun e he => by cases e <;> simp at he <;> rfl, rfl, rfl⟩

theorem onlyWrites_physical (r : Half) : OnlyWrites [.qpInt, .qpFrac] s (s.setQuant (s.quant.physical r)) :=
  ⟨fun e he => by cases e <;> simp at he <;> rfl, rfl, rfl⟩

theorem onlyWrites_setEnc (v : EncStat) : OnlyWrites [.encStat] s (s.setStatus (s.status.setEnc v)) :=
  ⟨fun e he => by cases e <;> simp at he <;> rfl, rfl, rfl⟩

theorem onlyWrites_setDec (v : DecStat) : OnlyWrites [.decStat] s (s.setStatus (s.status.setDec v)) :=
  ⟨fun e he => by cases e <;> simp at he <;> rfl, rfl, rfl⟩

theorem onlyWrites_setQ (v : QStat) : OnlyWrites [.qStat] s (s.setStatus (s.status.setQ v)) :=
  ⟨fun e he => by cases e <;> simp at he <;> rfl, rfl, rfl⟩

theorem onlyWrites_setCsMatch (v : Bool) : OnlyWrites [.csMatch] s (s.setStatus (s.status.setCsMatch v)) :=
  ⟨fun e he => by cases e <;> simp at he <;> rfl, rfl, rfl⟩

theorem onlyWrites_takeIllegal : OnlyWrites [.ill] s s.takeIllegal :=
  ⟨fun e he => by cases e <;> simp at he <;> rfl, rfl, rfl⟩

theorem onlyWrites_setStatus (v : Status) :
    OnlyWrites [.encStat, .decStat, .qStat, .csMatch, .ill] s (s.setStatus v) :=
  ⟨fun e he => by cases e <;> simp at he <;> rfl, rfl, rfl⟩

end NamedUpdates

/-- What DEC_END does, by its verdict (rule R79). -/
theorem execDecEnd_cases (s : State) :
    (s.rx.verdict = .ok ∧ execDecEnd s =
      .next (((s.setRxOut s.rx.result).setStatus (s.status.setDec .ok)).setRx RxStream.empty)) ∨
    (s.rx.verdict ≠ .ok ∧
      execDecEnd s = .next ((s.setStatus (s.status.setDec s.rx.verdict)).setRx RxStream.empty)) := by
  by_cases hv : s.rx.verdict = .ok
  · exact .inl ⟨hv, by rw [execDecEnd, if_pos hv, hv]⟩
  · exact .inr ⟨hv, by rw [execDecEnd, if_neg hv]; rfl⟩

/-- Every command writes only its write set (rule R31): its named updates, one after the other. -/
theorem exec_onlyWrites {i : Instr} {s t : State} (h : exec i s = .next t) :
    OnlyWrites (writeSet i t.status) s t := by
  cases i with
  | csClr => cases h; exact (onlyWrites_setCsum s _).trans (onlyWrites_setCsMatch _ _)
  | csAdd b => cases h; exact onlyWrites_setCsum s _
  | csChk hi lo => cases h; exact onlyWrites_setCsMatch s _
  | encHdr tt bc dir node obj => cases h; exact (onlyWrites_setTxHdr s _).trans (onlyWrites_setTxPay _ _)
  | encPush b => cases h; exact onlyWrites_setTxPay s _
  | encEnd => cases h; exact (onlyWrites_setTxOut s _).trans (onlyWrites_setEnc _ _)
  | decClr => cases h; exact onlyWrites_setRx s _
  | decPush b => cases h; exact onlyWrites_setRx s _
  | decEnd =>
    rcases execDecEnd_cases s with ⟨hv, he⟩ | ⟨hv, he⟩ <;> rw [exec, he] at h <;> cases h
    · refine (((onlyWrites_setRxOut s _).trans (onlyWrites_setDec _ _)).trans (onlyWrites_setRx _ _)).mono ?_
      simp [writeSet, streamElems]
    · refine ((onlyWrites_setDec s _).trans (onlyWrites_setRx _ _)).mono ?_
      simp [writeSet, streamElems]
  | qLdv imm => cases h; exact onlyWrites_setQv s _
  | qLdn imm => cases h; exact onlyWrites_setQn s _
  | qToreg =>
    rcases execQToreg_cases s with ⟨-, he⟩ | ⟨r, -, he⟩ <;> rw [exec, he] at h <;> cases h
    · exact onlyWrites_setQ s _
    · refine ((onlyWrites_setQreg s _).trans (onlyWrites_setQ _ _)).mono ?_
      simp [writeSet]
  | qFrom16 hi lo => cases h; exact (onlyWrites_physical s _).trans (onlyWrites_setQ _ _)
  | qFrom8 hi => cases h; exact (onlyWrites_physical s _).trans (onlyWrites_setQ _ _)
  | stClr => cases h; exact onlyWrites_setStatus s _

/-- A command other than ST_CLR writes elements of its own unit only (rules R31, R127). -/
theorem part_of_mem_writeSet {i : Instr} (hi : i ≠ .stClr) (after : Status) :
    ∀ e ∈ writeSet i after, e.part = instrPart i := by
  cases i with
  | stClr => exact absurd rfl hi
  | decEnd => by_cases hv : after.dec = .ok <;> simp [writeSet, streamElems, instrPart, Elem.part, hv]
  | qToreg => by_cases hv : after.q = .ok <;> simp [writeSet, instrPart, Elem.part, hv]
  | _ => simp [writeSet, streamElems, instrPart, Elem.part]

/-! ### Reset -/

/-- The host's pending actions and past reads are no elements of the block (log entry 5). -/
theorem value_applyReset (s : State) (e : Elem) : e.value s.applyReset = e.value State.reset := by
  cases e <;> rfl

/-- Every element holds a value in the reset state, and each of its numbers is 0 (rule R32). -/
theorem value_reset (e : Elem) : e.value State.reset ≠ [] ∧ ∀ v ∈ e.value State.reset, v = 0 := by
  cases e <;> decide

/-! ### Telegrams -/

@[simp] theorem length_sealTelegram (l : List Byte) : (sealTelegram l).length = l.length + 2 := by
  simp [sealTelegram, trailer]

/-- All of a sealed telegram but its trailer is what was sealed (rule R70). -/
theorem take_sealTelegram (l : List Byte) : (sealTelegram l).take ((sealTelegram l).length - 2) = l := by
  rw [length_sealTelegram, Nat.add_sub_cancel, sealTelegram, List.take_left]

/-- The trailer of a sealed telegram, read high byte first, is the checksum of what was sealed (rules R39, R70). -/
theorem trailer_sealTelegram (l : List Byte) :
    ((sealTelegram l).getD ((sealTelegram l).length - 2) 0).toNat * 256 +
      ((sealTelegram l).getD ((sealTelegram l).length - 1) 0).toNat = (csum16 l).toNat := by
  have hhi : (sealTelegram l).getD ((sealTelegram l).length - 2) 0 = (csum16 l).extractLsb' 8 8 := by
    simp [sealTelegram, trailer]
  have hlo : (sealTelegram l).getD ((sealTelegram l).length - 1) 0 = (csum16 l).extractLsb' 0 8 := by
    simp [sealTelegram, trailer]
  rw [hhi, hlo, ← toNat_pairValue, pairValue_trailer]

/-- A sealed telegram whose delimiter declares its payload's length is accepted (rules R75, R81). -/
theorem decodeTelegram_sealTelegram {d node obj : Byte} {p : List Byte} (hd : declaredLength d = p.length) :
    decodeTelegram (sealTelegram (d :: node :: obj :: p)) = .ok d node obj p := by
  have hlen : ¬ (sealTelegram (d :: node :: obj :: p)).length < 2 := by simp
  simp only [decodeTelegram]
  rw [if_neg hlen, take_sealTelegram, trailer_sealTelegram, if_neg (not_not_intro rfl)]
  simp [sealTelegram, hd]

/-- The delimiter declares the payload length it was made for (rules R69, R75). -/
theorem declaredLength_delim (tt : BitVec 2) (bc dir : BitVec 1) {k : Nat} (h1 : 1 ≤ k) (h16 : k ≤ 16) :
    declaredLength (delim tt bc dir k) = k := by
  rw [declaredLength_eq, delim, toNat_append_eq, BitVec.toNat_ofNat]
  omega

/-! ### The encoder's output -/

/-- Past the bytes of a padded list there are zeros. -/
theorem byteAt_padTo_of_le {n k : Nat} {l : List Byte} (h : l.length ≤ k) : byteAt (padTo n l) k = 0 := by
  by_cases hk : k < n
  · rw [byteAt_padTo l hk, List.getD_eq_default _ _ h]
  · exact byteAt_of_le _ (Nat.le_of_not_lt hk)

/-- TX_CNT counts the bytes pushed, up to sixteen (rule R23). -/
theorem toNat_cnt_payloadOf (bs : List Byte) : (payloadOf bs).cnt.toNat = min bs.length 16 := by
  rw [payloadOf, BitVec.toNat_ofNat, Config.maxPayload]
  omega

/-- TX_OVF marks a seventeenth byte pushed (rule R23). -/
theorem ovf_payloadOf (bs : List Byte) : (payloadOf bs).ovf = true ↔ 16 < bs.length := decide_eq_true_iff

/-- ENC_END's verdict is OK exactly when 1 to 16 bytes were pushed (rules R72, R73). -/
theorem verdict_payloadOf_eq_ok (bs : List Byte) :
    (payloadOf bs).verdict = .ok ↔ 1 ≤ bs.length ∧ bs.length ≤ 16 := by
  simp only [TxPayload.verdict, toNat_cnt_payloadOf, ovf_payloadOf]
  split
  · simp only [reduceCtorEq, false_iff]; omega
  · simp only [true_iff]; omega

/-- The telegram of a payload that fits (rules R70, R73). -/
theorem buildTelegram_payloadOf (h : TxHeader) {bs : List Byte} (h16 : bs.length ≤ 16) :
    buildTelegram h (payloadOf bs) = sealTelegram (delim h.tt h.bc h.dir bs.length :: h.node :: h.obj :: bs) := by
  have hcnt : (payloadOf bs).cnt.toNat = bs.length := (toNat_cnt_payloadOf bs).trans (Nat.min_eq_left h16)
  have hbytes : (payloadOf bs).bytes = bs := by
    rw [TxPayload.bytes, hcnt]
    exact take_toList_padTo h16
  rw [buildTelegram, hcnt, hbytes]

/-- TX_LEN after a successful ENC_END (rule R73). -/
theorem toNat_len_holding (h : TxHeader) {bs : List Byte} (h16 : bs.length ≤ 16) :
    (TxFrame.holding h (payloadOf bs)).len.toNat = bs.length + 5 := by
  rw [TxFrame.holding, BitVec.toNat_ofNat, toNat_cnt_payloadOf]
  omega

/-- TX_LEN is the length of the telegram built. -/
theorem length_buildTelegram (h : TxHeader) {bs : List Byte} (h16 : bs.length ≤ 16) :
    (buildTelegram h (payloadOf bs)).length = (TxFrame.holding h (payloadOf bs)).len.toNat := by
  rw [buildTelegram_payloadOf h h16, toNat_len_holding h h16]
  simp

/-- The host reads back the telegram that was built (rules R73, R81). -/
theorem telegram_holding (h : TxHeader) {bs : List Byte} (h16 : bs.length ≤ 16) :
    (TxFrame.holding h (payloadOf bs)).telegram = buildTelegram h (payloadOf bs) := by
  have hlen := length_buildTelegram h h16
  rw [TxFrame.telegram, ← hlen]
  exact take_toList_padTo (by rw [hlen, toNat_len_holding h h16]; omega)

/-- The decoder accepts what the encoder built (rules R73, R81). -/
theorem decodeTelegram_holding (h : TxHeader) {bs : List Byte} (h1 : 1 ≤ bs.length) (h16 : bs.length ≤ 16) :
    decodeTelegram (TxFrame.holding h (payloadOf bs)).telegram =
      .ok (delim h.tt h.bc h.dir bs.length) h.node h.obj bs := by
  rw [telegram_holding h h16, buildTelegram_payloadOf h h16]
  exact decodeTelegram_sealTelegram (declaredLength_delim _ _ _ h1 h16)

/-- ENC_END's verdict is one of two (rule R73). -/
theorem TxPayload.verdict_eq (p : TxPayload) : p.verdict = .ok ∨ p.verdict = .lengthError := by
  rw [TxPayload.verdict]
  split
  · exact .inr rfl
  · exact .inl rfl

/-- What ENC_END does, by its verdict (rule R73). -/
theorem execEncEnd_cases (s : State) :
    (s.txPay.verdict = .ok ∧ execEncEnd s =
      .next ((s.setTxOut (TxFrame.holding s.txHdr s.txPay)).setStatus (s.status.setEnc .ok))) ∨
    (s.txPay.verdict = .lengthError ∧
      execEncEnd s = .next ((s.setTxOut TxFrame.empty).setStatus (s.status.setEnc .lengthError))) := by
  rcases s.txPay.verdict_eq with hv | hv
  · exact .inl ⟨hv, by rw [execEncEnd, if_pos hv, hv]⟩
  · exact .inr ⟨hv, by rw [execEncEnd, hv, if_neg nofun]⟩

/-! ### The decoder's results -/

/-- What an OK verdict of DEC_END says of the stream (rule R79). -/
theorem plen_of_verdict_eq_ok {r : RxStream} (h : r.verdict = .ok) : r.plen = declaredLength (byteAt r.raw 0) := by
  rw [RxStream.verdict] at h
  split_ifs at h with _ _ hlen
  exact hlen

/-- A delimiter declares 1 to 16 bytes (rule R46). -/
theorem declaredLength_bounds (d : Byte) : 1 ≤ declaredLength d ∧ declaredLength d ≤ 16 := by
  rw [declaredLength_eq]
  omega

/-- RX_PLEN after a DEC_END that accepts is the length the delimiter declares (rule R79). -/
theorem toNat_plen_result {r : RxStream} (h : r.verdict = .ok) :
    r.result.plen.toNat = declaredLength r.result.delim := by
  have hplen := plen_of_verdict_eq_ok h
  obtain ⟨-, h16⟩ := declaredLength_bounds (byteAt r.raw 0)
  simp only [RxStream.result, hplen, BitVec.toNat_ofNat]
  omega

/-- RX_PAY after a DEC_END that accepts is 0 past RX_PLEN (rule R27). -/
theorem byteAt_pay_result {r : RxStream} (h : r.verdict = .ok) {k : Nat} (hk : r.result.plen.toNat ≤ k) :
    byteAt r.result.pay k = 0 := by
  apply byteAt_padTo_of_le
  rw [toNat_plen_result h] at hk
  exact ((List.length_take_le _ _).trans (plen_of_verdict_eq_ok h).le).trans hk

/-! ### The quantizer's ranges -/

/-- A register is at most full scale (rule R92): a quotient of full scale leaves no remainder that could round up. -/
theorem le_fullScale_of_toRegister {v n q : Nat} (h : toRegister v n = some q) : q ≤ 25600 := by
  have hrange : ¬ (n = 0 ∨ n < v) := fun hn => by rw [(toRegister_eq_none v n).mpr hn] at h; cases h
  have hdiv : n * (25600 * v / n) + 25600 * v % n = 25600 * v := Nat.div_add_mod _ _
  have hle : 25600 * v / n ≤ 25600 := Nat.div_le_of_le_mul (by rw [Nat.mul_comm n]; omega)
  have hfull : 25600 * v / n = 25600 → 25600 * v % n = 0 := fun he => by rw [he] at hdiv; omega
  simp only [toRegister, if_neg hrange, Config.fullScale] at h
  generalize 25600 * v / n = d at *
  generalize 25600 * v % n = r at *
  split at h
  · cases h; exact hle
  · have hlt : d < 25600 := by omega
    split_ifs at h <;> cases h <;> omega

/-- QP_FRAC after a conversion (rules R96 to R98). -/
theorem qpFrac_physical_lt (q : Quantizer) (r : Half) : (q.physical r).qpFrac.toNat < 25600 := by
  obtain ⟨-, hlt⟩ := fromRegister_spec q.qn.toNat r.toNat
  simp only [Quantizer.physical, Quantizer.setQp_qpFrac, BitVec.toNat_ofNat]
  omega

/-! ### The invariant under the named updates -/

section Updates
variable {s : State} (h : Inv s)
include h

theorem Inv.setPort (p : List HostAction) : Inv (s.setPort p) := { h with }

theorem Inv.setReads (l : List Word) : Inv (s.setReads l) := { h with }

theorem Inv.setCsum (v : Half) : Inv (s.setCsum v) := { h with }

theorem Inv.setTxHdr (v : TxHeader) : Inv (s.setTxHdr v) := { h with }

theorem Inv.setTxPay (bs : List Byte) : Inv (s.setTxPay (payloadOf bs)) := { h with txPay := ⟨bs, rfl⟩ }

theorem Inv.setRx (bs : List Byte) : Inv (s.setRx (streamOf bs)) := { h with rxStream := ⟨bs, rfl⟩ }

theorem Inv.setQuant {q : Quantizer} (hreg : q.qreg.toNat ≤ 25600) (hfrac : q.qpFrac.toNat < 25600) :
    Inv (s.setQuant q) :=
  { h with qreg := hreg, qpFrac := hfrac }

/-- A new STATUS is no claim on the results where its ENC_STAT and DEC_STAT are kept or cleared. -/
theorem Inv.setStatus {v : Status} (henc : v.enc = s.status.enc ∨ v.enc = .none)
    (hdec : v.dec = s.status.dec ∨ v.dec = .none) : Inv (s.setStatus v) :=
  { h with
    encError := fun he => h.encError ((henc.resolve_right fun hn => nomatch hn.symm.trans he).symm.trans he)
    encOk := fun he => h.encOk ((henc.resolve_right fun hn => nomatch hn.symm.trans he).symm.trans he)
    rxOk := fun hd => h.rxOk ((hdec.resolve_right fun hn => nomatch hn.symm.trans hd).symm.trans hd) }

/-- No telegram, and the verdict that says so (rule R73, the failure). -/
theorem Inv.dropTelegram : Inv ((s.setTxOut TxFrame.empty).setStatus (s.status.setEnc .lengthError)) :=
  { h with
    txLen := .inl rfl
    txTail := fun k _ => by
      rw [State.setStatus_txOut, State.setTxOut_txOut, TxFrame.empty, ← padTo_nil]
      exact byteAt_padTo_of_le (Nat.zero_le k)
    txValid := fun hlen => absurd rfl hlen
    encError := fun _ => rfl
    encOk := nofun }

/-- A telegram the decoder accepts, and the verdict that says so (rule R73, the success). -/
theorem Inv.holdTelegram {f : TxFrame} (h6 : 6 ≤ f.len.toNat) (h21 : f.len.toNat ≤ 21)
    (htail : ∀ k, f.len.toNat ≤ k → byteAt f.buf k = 0) (hvalid : (decodeTelegram f.telegram).stat = .ok) :
    Inv ((s.setTxOut f).setStatus (s.status.setEnc .ok)) :=
  { h with
    txLen := .inr ⟨h6, h21⟩
    txTail := htail
    txValid := fun _ => hvalid
    encError := nofun
    encOk := fun _ => Nat.ne_of_gt (Nat.lt_of_lt_of_le (by decide) h6) }

/-- The results of an accepted stream, and the verdict that says so (rule R79, OK). -/
theorem Inv.takeResult (hv : s.rx.verdict = .ok) :
    Inv ((s.setRxOut s.rx.result).setStatus (s.status.setDec .ok)) :=
  have hlen : s.rx.result.plen.toNat = declaredLength s.rx.result.delim := toNat_plen_result hv
  have hbounds := declaredLength_bounds s.rx.result.delim
  { h with
    rxPlen := hlen.le.trans hbounds.2
    rxTail := fun _ hk => byteAt_pay_result hv hk
    rxDeclared := fun _ => hlen
    rxOk := fun _ => Nat.ne_of_gt (hbounds.1.trans hlen.ge) }

/-- The verdict of a stream that is not accepted (rule R79). -/
theorem Inv.refuseStream {v : DecStat} (hv : v ≠ .ok) : Inv (s.setStatus (s.status.setDec v)) :=
  { h with rxOk := fun hd => absurd hd hv }

end Updates

/-! ### The invariant of every run -/

/-- The invariant at reset: no byte pushed, no telegram held or decoded, and every number 0. -/
theorem inv_reset : Inv State.reset where
  txPay := ⟨[], payloadOf_nil.symm⟩
  txLen := .inl rfl
  txTail k _ := (congrArg (byteAt · k) (padTo_nil 21)).symm.trans (byteAt_padTo_of_le (Nat.zero_le k))
  txValid hlen := absurd rfl hlen
  encError := nofun
  encOk := nofun
  rxStream := ⟨[], streamOf_nil.symm⟩
  rxPlen := Nat.zero_le _
  rxTail k _ := (congrArg (byteAt · k) (padTo_nil 16)).symm.trans (byteAt_padTo_of_le (Nat.zero_le k))
  rxDeclared hlen := absurd rfl hlen
  rxOk := nofun
  qreg := Nat.zero_le _
  qpFrac := by decide

/-- Every command keeps the invariant. -/
theorem Inv.exec {i : Instr} {s t : State} (h : Inv s) (ht : exec i s = .next t) : Inv t := by
  obtain ⟨bs, hbs⟩ := h.txPay
  obtain ⟨rs, hrs⟩ := h.rxStream
  cases i with
  | csClr => cases ht; exact (h.setCsum 0).setStatus (.inl rfl) (.inl rfl)
  | csAdd b => cases ht; exact h.setCsum _
  | csChk hi lo => cases ht; exact h.setStatus (.inl rfl) (.inl rfl)
  | encHdr tt bc dir node obj => cases ht; rw [← payloadOf_nil]; exact (h.setTxHdr _).setTxPay []
  | encPush b => cases ht; rw [hbs, push_payloadOf]; exact h.setTxPay _
  | encEnd =>
    rcases execEncEnd_cases s with ⟨hv, he⟩ | ⟨-, he⟩ <;> rw [Machine.exec, he] at ht <;> cases ht
    · rw [hbs] at hv ⊢
      obtain ⟨h1, h16⟩ := (verdict_payloadOf_eq_ok bs).mp hv
      have hlen := toNat_len_holding s.txHdr h16
      refine h.holdTelegram (by omega) (by omega) (fun k hk => ?_) ?_
      · exact byteAt_padTo_of_le ((length_buildTelegram s.txHdr h16).le.trans hk)
      · rw [decodeTelegram_holding s.txHdr h1 h16]
        rfl
    · exact h.dropTelegram
  | decClr => cases ht; rw [← streamOf_nil]; exact h.setRx []
  | decPush b => cases ht; rw [hrs, push_streamOf]; exact h.setRx _
  | decEnd =>
    rcases execDecEnd_cases s with ⟨hv, he⟩ | ⟨hv, he⟩ <;> rw [Machine.exec, he] at ht <;> cases ht <;>
      rw [← streamOf_nil]
    · exact (h.takeResult hv).setRx []
    · exact (h.refuseStream hv).setRx []
  | qLdv imm => cases ht; exact h.setQuant h.qreg h.qpFrac
  | qLdn imm => cases ht; exact h.setQuant h.qreg h.qpFrac
  | qToreg =>
    rcases execQToreg_cases s with ⟨-, he⟩ | ⟨r, hr, he⟩ <;> rw [Machine.exec, he] at ht <;> cases ht
    · exact h.setStatus (.inl rfl) (.inl rfl)
    · refine (h.setQuant (q := s.quant.setQreg (.ofNat 16 r)) ?_ h.qpFrac).setStatus (.inl rfl) (.inl rfl)
      exact (Nat.mod_le _ _).trans (le_fullScale_of_toRegister hr)
  | qFrom16 hi lo =>
    cases ht
    exact (h.setQuant (q := s.quant.physical _) h.qreg (qpFrac_physical_lt _ _)).setStatus (.inl rfl) (.inl rfl)
  | qFrom8 hi =>
    cases ht
    exact (h.setQuant (q := s.quant.physical _) h.qreg (qpFrac_physical_lt _ _)).setStatus (.inl rfl) (.inl rfl)
  | stClr => cases ht; exact h.setStatus (.inr rfl) (.inr rfl)

/-- Every host action keeps the invariant. -/
theorem Inv.performAction {a : HostAction} {s t : State} (h : Inv s) (ht : performAction a s = .next t) : Inv t := by
  rcases performAction_cases ht with ⟨w, i, -, -, he⟩ | ⟨w, e, -, -, rfl⟩ | ⟨adr, -, rfl⟩ | ⟨-, rfl⟩
  · exact h.exec he
  · exact h.setStatus (.inl rfl) (.inl rfl)
  · exact h.setReads _
  · exact (inv_reset.setPort s.port).setReads s.reads

/-! ### TX_LEN and ENC_STAT -/

/-- R33's clause on TX_LEN and ENC_STAT, as it is printed. -/
def Backed (s : State) : Prop := s.status.enc ≠ .ok → s.txOut.len.toNat = 0

/-- TX_BUF and TX_LEN are written by ENC_END only (rule R24). -/
theorem exec_txOut {i : Instr} {s t : State} (hi : i ≠ .encEnd) (h : exec i s = .next t) : t.txOut = s.txOut := by
  cases i with
  | encEnd => exact absurd rfl hi
  | qToreg => rw [exec, execQToreg_eq] at h; cases h; rfl
  | _ => cases h; rfl

/-- ENC_STAT is written by ENC_END and ST_CLR only (rules R17, R31). -/
theorem exec_enc {i : Instr} {s t : State} (hi : i ≠ .encEnd) (hclr : i ≠ .stClr) (h : exec i s = .next t) :
    t.status.enc = s.status.enc := by
  obtain ⟨hstatus, -⟩ := exec_setStatus h s.status
  rw [hstatus]
  cases i with
  | encEnd => exact absurd rfl hi
  | stClr => exact absurd rfl hclr
  | _ => rfl

/-- ENC_END leaves a telegram only with its OK verdict, whatever was held (rule R73). -/
theorem backed_of_encEnd {s t : State} (h : exec .encEnd s = .next t) : Backed t := by
  rcases execEncEnd_cases s with ⟨-, he⟩ | ⟨-, he⟩ <;> rw [exec, he] at h <;> cases h
  · exact fun hne => absurd rfl hne
  · exact fun _ => rfl

/-- Every host action but the ST_CLR word keeps the clause. -/
theorem Backed.performAction {a : HostAction} {s t : State} (h : Backed s) (ha : a ≠ .command 0xF0000000)
    (ht : performAction a s = .next t) : Backed t := by
  rcases performAction_cases ht with ⟨w, i, hcmd, hw, he⟩ | ⟨w, e, -, -, rfl⟩ | ⟨adr, -, rfl⟩ | ⟨-, rfl⟩
  · by_cases hi : i = .encEnd
    · rw [hi] at he
      exact backed_of_encEnd he
    · have hclr : i ≠ .stClr := fun hc => by
        rw [hc] at hw
        exact ha (by rw [hcmd, eq_of_decode_eq_stClr hw])
      rw [Backed, exec_enc hi hclr he, exec_txOut hi he]
      exact h
  · exact h
  · exact h
  · exact fun _ => rfl

/-! ### The obligations of 10_state.md -/

/-- Settles O47: the idle step changes nothing, and every other step is one host action. -/
theorem stepKeepsTheInvariant : Obligations.StepKeepsTheInvariant := by
  intro s t h hstep
  rcases step_cases hstep with ⟨-, rfl⟩ | ⟨a, rest, -, ha⟩
  · exact h
  · exact (h.setPort rest).performAction ha

/-- Settles O44: each command is a few named updates, each of which writes its own elements and no other. -/
theorem commandsWriteOnlyTheirWriteSet : Obligations.CommandsWriteOnlyTheirWriteSet := by
  refine ⟨fun i s => ?_, fun i after e he => ?_, fun w e s hw => ?_⟩
  · obtain ⟨t, ht, -⟩ := exec_next i s
    exact ⟨t, ht, exec_onlyWrites ht⟩
  · by_cases hi : i = .stClr
    · exact .inl hi
    · exact .inr (part_of_mem_writeSet hi after e he)
  · exact ⟨_, acceptWord_of_error hw s, onlyWrites_takeIllegal s⟩

/-- Settles O45: `verdictUpdate` gives the next STATUS, and STATUS is not among what decides the rest. -/
theorem noCommandReadsStatus : Obligations.NoCommandReadsStatus := by
  intro i s v
  obtain ⟨t, ht, -⟩ := exec_next i s
  obtain ⟨hstatus, hu⟩ := exec_setStatus ht v
  obtain ⟨henc, hdec, hq, hcs, hill⟩ := verdictUpdate_alikeOrKept i s
  refine ⟨t, _, ht, hu, rfl, ?_⟩
  rw [hstatus]
  exact ⟨henc _ _, hdec _ _, hq _ _, hcs _ _, hill _ _⟩

/-- Settles O49: the invariant holds at the end of every run from reset, and R33's bounds are among its clauses. -/
theorem runsFromResetStayInRange : Obligations.RunsFromResetStayInRange := by
  intro acts
  obtain ⟨t, ht, h⟩ := performAll_keeps (fun _ _ _ => Inv.performAction) acts State.reset inv_reset
  obtain ⟨bs, hbs⟩ := h.txPay
  have hplen := h.rxPlen
  refine ⟨t, ht, ?_, ?_, h.txLen, h.txTail, by omega, h.rxTail, h.qreg, h.qpFrac⟩
  · rw [hbs, toNat_cnt_payloadOf]; omega
  · rw [hbs, toNat_cnt_payloadOf, ovf_payloadOf]; omega

/-- Refutes O50 by vector T-ST-2: the telegram of T-ENC-1, then ST_CLR, which clears ENC_STAT and keeps TX_LEN at 7. -/
theorem not_noTelegramWithoutOkVerdict : ¬ Obligations.NoTelegramWithoutOkVerdict := by
  intro h
  have hrun : performAll [.command 0x20000032, .command 0x21000032, .command 0x21000000, .command 0x22000000,
      .command 0xF0000000] State.reset =
      .next (((State.reset.setTxHdr ⟨0, 0, 0, 0, 0x32⟩).setTxPay (payloadOf [0x32, 0])).setTxOut
        ⟨padTo 21 [1, 0, 0x32, 0x32, 0, 0, 0x65], 7⟩) := by
    rfl
  exact absurd (h _ _ hrun (by decide)) (by decide)

/-- Settles O51: reset and ENC_END establish the clause, and of the commands only ENC_END writes TX_LEN and only ENC_END
and ST_CLR write ENC_STAT. -/
theorem onlyStClrPartsTelegramFromItsVerdict : Obligations.OnlyStClrPartsTelegramFromItsVerdict := by
  refine ⟨fun _ => rfl, fun s => ?_, fun s t h hport hstep => ?_⟩
  · obtain ⟨t, ht, -⟩ := exec_next .encEnd s
    exact ⟨t, ht, backed_of_encEnd ht⟩
  · rcases step_cases hstep with ⟨-, rfl⟩ | ⟨a, rest, hp, ha⟩
    · exact h
    · refine Backed.performAction (s := s.setPort rest) h (fun hc => hport ?_) ha
      rw [hp, hc]
      rfl

/-- Settles O9: a reset action gives every element the value of the reset state, and there each is 0. -/
theorem resetZeroesEveryElement : Obligations.ResetZeroesEveryElement := by
  intro s e
  obtain ⟨hne, hzero⟩ := value_reset e
  refine ⟨hzero, s.applyReset, rfl, ?_⟩
  rw [value_applyReset]
  exact ⟨hne, hzero⟩

/-- Settles O48: `inv_reset`. -/
theorem resetMeetsTheInvariant : Obligations.ResetMeetsTheInvariant := inv_reset

end Sys2Proof.Machine

/-! PROOFS of the statements about the read port and the host's actions (20_memory.md): what each address reads (rules
R44 to R47), what a read leaves unchanged (rule R43), and a run as the host's actions in issue order (rule R49). -/

namespace Sys2Proof.Machine

/-! ### The host's side is no part of the block -/

section HostSide
variable (s : State)

/-- No address shows what the host has yet to present (rule R45). -/
@[simp] theorem hostRead_setPort (p : List HostAction) (a : Addr) : hostRead (s.setPort p) a = hostRead s a := rfl

/-- No address shows what the host has read (rule R45). -/
@[simp] theorem hostRead_setReads (l : List Word) (a : Addr) : hostRead (s.setReads l) a = hostRead s a := rfl

@[simp] theorem value_setPort (p : List HostAction) (e : Elem) : e.value (s.setPort p) = e.value s := by
  cases e <;> rfl

@[simp] theorem value_setReads (l : List Word) (e : Elem) : e.value (s.setReads l) = e.value s := by
  cases e <;> rfl

end HostSide

/-! ### One action, and a run of them -/

/-- A host action acts the same whatever the host presents after it. -/
theorem performAction_setPort {a : HostAction} {s t : State} (h : performAction a s = .next t) (p : List HostAction) :
    performAction a (s.setPort p) = .next (t.setPort p) := by
  rcases performAction_cases h with ⟨w, i, rfl, hw, he⟩ | ⟨w, e, rfl, hw, rfl⟩ | ⟨adr, rfl, rfl⟩ | ⟨rfl, rfl⟩
  · exact (acceptWord_of_ok hw _).trans (exec_setPort i s t p he)
  · exact acceptWord_of_error hw _
  · rfl
  · rfl

/-- A step takes the oldest pending action from the port and performs it (rule R132). -/
theorem step_of_port_eq_cons {s : State} {a : HostAction} {rest : List HostAction} (h : s.port = a :: rest) :
    step s = performAction a (s.setPort rest) := by
  rw [step, serveHost, h]

/-- One more step of a run. -/
theorem run_succ_of_step {s t : State} (h : step s = .next t) (k : Nat) :
    Host.Core.run Sys2Proof.core (k + 1) s = Host.Core.run Sys2Proof.core k t := by
  simp only [Host.Core.run, Sys2Proof.core, h]

/-- One more action of a sequence. -/
theorem performAll_cons_of_next {a : HostAction} {s t : State} (h : performAction a s = .next t)
    (rest : List HostAction) : performAll (a :: rest) s = performAll rest t := by
  rw [performAll, h]

/-! ### The register words as numbers (rules R45, R46) -/

@[simp] theorem toNat_byteWord (b : Byte) : (byteWord b).toNat = b.toNat :=
  BitVec.toNat_setWidth_of_le (by decide)

theorem toNat_toByte (t : Status) : t.toByte.toNat =
    t.enc.code.toNat + 4 * t.dec.code.toNat + 16 * t.q.code.toNat + 64 * t.csMatch.toNat + 128 * t.ill.toNat := by
  simp only [Status.toByte, toNat_append_eq, BitVec.toNat_ofBool]
  omega

section RegisterWords
variable (s : State)

theorem toNat_txCtl :
    s.txCtl.toNat = s.txPay.cnt.toNat + 32 * s.txPay.ovf.toNat + 256 * s.txOut.len.toNat := by
  simp only [State.txCtl, toNat_append_eq, BitVec.toNat_ofBool, BitVec.toNat_zero]
  omega

theorem toNat_txHdrWord : s.txHdrWord.toNat = s.txHdr.obj.toNat + 2 ^ 8 * s.txHdr.node.toNat
    + 2 ^ 20 * s.txHdr.dir.toNat + 2 ^ 21 * s.txHdr.bc.toNat + 2 ^ 22 * s.txHdr.tt.toNat := by
  simp only [State.txHdrWord, toNat_append_eq, BitVec.toNat_zero]
  omega

theorem toNat_rxStreamWord :
    s.rxStreamWord.toNat = s.rx.w0.toNat + 2 ^ 8 * s.rx.w1.toNat + 2 ^ 16 * s.rx.n.toNat := by
  simp only [State.rxStreamWord, toNat_append_eq, BitVec.toNat_zero]
  omega

theorem toNat_rxHdrWord : s.rxHdrWord.toNat = s.rxOut.obj.toNat + 2 ^ 8 * s.rxOut.node.toNat
    + 2 ^ 16 * s.rxOut.delim.toNat + 2 ^ 24 * s.rxOut.plen.toNat := by
  simp only [State.rxHdrWord, toNat_append_eq, BitVec.toNat_zero]
  omega

/-- The view of RX_DELIM by arithmetic on its number; the length declared fits its five bits. -/
theorem toNat_rxFields : s.rxFields.toNat = (s.rxOut.delim.toNat % 16 + 1) + 2 ^ 8 * (s.rxOut.delim.toNat / 16 % 2)
    + 2 ^ 9 * (s.rxOut.delim.toNat / 32 % 2) + 2 ^ 10 * (s.rxOut.delim.toNat / 64) := by
  have hd := s.rxOut.delim.isLt
  simp only [State.rxFields, declaredLength_eq, toNat_append_eq, BitVec.extractLsb'_toNat, Nat.shiftRight_eq_div_pow,
    BitVec.toNat_ofNat]
  omega

end RegisterWords

/-! ### The buffers and the addresses with no entry (rules R45, R47) -/

section Buffers
variable (s : State)

/-- Above the last register the register map is the buffers' part. -/
theorem hostRead_of_le {a : Addr} (h : 0x0D ≤ a.toNat) : hostRead s a = s.bufferWord a.toNat := by
  obtain ⟨k, hk⟩ := Nat.exists_eq_add_of_le' h
  rw [hostRead, hk]
  rfl

theorem hostRead_ofNat {n : Nat} (hlo : 0x0D ≤ n) (hhi : n < 256) : hostRead s (.ofNat 8 n) = s.bufferWord n := by
  have hn : (BitVec.ofNat 8 n).toNat = n := Nat.mod_eq_of_lt hhi
  rw [hostRead_of_le s (hn.symm ▸ hlo), hn]

theorem bufferWord_txBuf {k : Nat} (h : k < 21) : s.bufferWord (0x20 + k) = byteWord s.txOut.buf[k] := by
  rw [State.bufferWord, if_pos (by omega), Nat.add_sub_cancel_left, byteAt_of_lt _ h]

theorem bufferWord_txPay {k : Nat} (h : k < 16) : s.bufferWord (0x40 + k) = byteWord s.txPay.pay[k] := by
  rw [State.bufferWord, if_neg (by omega), if_pos (by omega), Nat.add_sub_cancel_left, byteAt_of_lt _ h]

theorem bufferWord_rxRaw {k : Nat} (h : k < 21) : s.bufferWord (0x50 + k) = byteWord s.rx.raw[k] := by
  rw [State.bufferWord, if_neg (by omega), if_neg (by omega), if_pos (by omega), Nat.add_sub_cancel_left,
    byteAt_of_lt _ h]

theorem bufferWord_rxPay {k : Nat} (h : k < 16) : s.bufferWord (0x70 + k) = byteWord s.rxOut.pay[k] := by
  rw [State.bufferWord, if_neg (by omega), if_neg (by omega), if_neg (by omega), if_pos (by omega),
    Nat.add_sub_cancel_left, byteAt_of_lt _ h]

/-- Outside the four buffers there is nothing to read. -/
theorem bufferWord_eq_zero {n : Nat} (h : n < 0x20 ∨ 0x34 < n ∧ n < 0x40 ∨ 0x64 < n ∧ n < 0x70 ∨ 0x7F < n) :
    s.bufferWord n = 0 := by
  rw [State.bufferWord, if_neg (by omega), if_neg (by omega), if_neg (by omega), if_neg (by omega)]

end Buffers

/-! ### The obligations of 20_memory.md -/

/-- Settles O12: by induction on the actions; each step performs the oldest one, which acts the same whatever is pending
after it. -/
theorem runPerformsActionsInOrder : Obligations.RunPerformsActionsInOrder := by
  intro acts later s
  induction acts generalizing s with
  | nil => rfl
  | cons a rest ih =>
    obtain ⟨t, ht⟩ := performAction_next a s
    have hstep : step (s.setPort (a :: rest ++ later)) = .next (t.setPort (rest ++ later)) :=
      (step_of_port_eq_cons rfl).trans (performAction_setPort ht _)
    rw [performAll_cons_of_next (performAction_setPort ht later), ← ih t]
    exact run_succ_of_step hstep rest.length

/-- Settles O13: below 0x0D each address reads its register word, whose number is the sum of its fields in place; from
0x0D up there are the buffers and, between and past them, addresses with no entry. -/
theorem readPortFollowsTheRegisterMap : Obligations.ReadPortFollowsTheRegisterMap := by
  intro s
  refine ⟨(toNat_byteWord _).trans (toNat_toByte s.status), BitVec.toNat_setWidth_of_le (by decide), toNat_txCtl s,
    toNat_txHdrWord s, toNat_rxStreamWord s, BitVec.toNat_setWidth_of_le (by decide), toNat_rxHdrWord s,
    BitVec.toNat_setWidth_of_le (by decide), BitVec.toNat_setWidth_of_le (by decide),
    BitVec.toNat_setWidth_of_le (by decide), rfl, BitVec.toNat_setWidth_of_le (by decide), toNat_rxFields s,
    fun k h => ?_, fun k h => ?_, fun k h => ?_, fun k h => ?_, fun a ha => ?_⟩
  · rw [hostRead_ofNat s (by omega) (by omega), bufferWord_txBuf s h, toNat_byteWord]
  · rw [hostRead_ofNat s (by omega) (by omega), bufferWord_txPay s h, toNat_byteWord]
  · rw [hostRead_ofNat s (by omega) (by omega), bufferWord_rxRaw s h, toNat_byteWord]
  · rw [hostRead_ofNat s (by omega) (by omega), bufferWord_rxPay s h, toNat_byteWord]
  · rw [hostRead_of_le s (by omega), bufferWord_eq_zero s (by omega)]

/-- Settles O8: the step takes the read from the port and adds its value to the reads, and neither list is part of the
block. -/
theorem readActionHasNoSideEffect : Obligations.ReadActionHasNoSideEffect := by
  intro s a rest hp
  refine ⟨(s.setPort rest).observe a, step_of_port_eq_cons hp, rfl, rfl, fun e => ?_, fun b => ?_⟩
  · rw [State.observe, value_setReads, value_setPort]
  · rw [State.observe, hostRead_setReads, hostRead_setPort]

end Sys2Proof.Machine

/-! PROOFS of the statements about the encoding (30_encoding.md): decode and encode undo each other (rules R57 to R64), the
decoder against the rows of the opcode map (rules R63 to R65), the assembler (rule R67), and the step that runs a decoded
word (rule R56). -/

namespace Sys2Proof.Machine

/-! ### Decoding what was encoded -/

/-- A value held in a field fits the field (rule R62). -/
theorem fits_toNat {n : Nat} (x : BitVec n) : fits n x.toNat = true := decide_eq_true x.isLt

/-- Every command is well formed: each operand has the width of its field (rule R62). -/
theorem wellFormed_eq_true (i : Instr) : i.wellFormed = true := by
  cases i <;> simp [Instr.wellFormed, Instr.toAsm, AsmLine.wellFormed, fits_toNat]

/-- The opcode of a command's word selects the format it was encoded in, and that format reads its operands back. -/
theorem decode_encode (i : Instr) : decode (encode i) = .ok i := by
  cases i <;> simp only [encode, decode, opcodeOf_encodeN, opcodeOf_encodeB, opcodeOf_encodeW, opcodeOf_encodeH,
    opcodeOf_encodeI, BitVec.reduceToNat, decodeN_encodeN, decodeB_encodeB, decodeW_encodeW, decodeH_encodeH,
    decodeI_encodeI]

/-- Settles O1: `decode_encode`, and every command is well formed by the widths of its operands. -/
theorem decodeOfEncodeIsTheCommand : Obligations.DecodeOfEncodeIsTheCommand :=
  fun i => ⟨wellFormed_eq_true i, decode_encode i⟩

/-! ### Encoding what was decoded -/

/-- The opcode is the word's number without its low 24 bits (rule R55). -/
theorem toNat_opcodeOf (w : Word) : (opcodeOf w).toNat = w.toNat / 2 ^ 24 := by
  rw [opcodeOf, toNat_extract]
  omega

/-- A reserved field is 0 exactly when its number is. -/
theorem extract_eq_zero_iff {w : Word} {lo k : Nat} : w.extractLsb' lo k = 0#k ↔ w.toNat / 2 ^ lo % 2 ^ k = 0 := by
  rw [← BitVec.toNat_inj, toNat_extract, BitVec.toNat_ofNat, Nat.zero_mod]

section Formats
variable {w : Word} {i : Instr} {op : Byte}

/-! A word is laid out again from its opcode and the fields its format reads, the reserved bits being 0 (rules R57 to
R61). -/

theorem encode_of_decodeN {j : Instr} (h : decodeN j w = .ok i) (hj : encode j = encodeN op)
    (hop : (opcodeOf w).toNat = op.toNat) : encode i = w := by
  obtain ⟨hres, rfl⟩ := decodeN_eq_ok.mp h
  rw [extract_eq_zero_iff] at hres
  rw [toNat_opcodeOf] at hop
  apply BitVec.eq_of_toNat_eq
  rw [hj, toNat_encodeN]
  omega

theorem encode_of_decodeB {mk : Byte → Instr} (h : decodeB mk w = .ok i) (hmk : ∀ b, encode (mk b) = encodeB op b)
    (hop : (opcodeOf w).toNat = op.toNat) : encode i = w := by
  obtain ⟨hres, rfl⟩ := decodeB_eq_ok.mp h
  rw [extract_eq_zero_iff] at hres
  rw [toNat_opcodeOf] at hop
  apply BitVec.eq_of_toNat_eq
  rw [hmk, toNat_encodeB, lowByte, toNat_extract]
  omega

theorem encode_of_decodeW {mk : Byte → Byte → Instr} (h : decodeW mk w = .ok i)
    (hmk : ∀ hi lo, encode (mk hi lo) = encodeW op hi lo) (hop : (opcodeOf w).toNat = op.toNat) : encode i = w := by
  obtain ⟨hres, rfl⟩ := decodeW_eq_ok.mp h
  rw [extract_eq_zero_iff] at hres
  rw [toNat_opcodeOf] at hop
  apply BitVec.eq_of_toNat_eq
  rw [hmk, toNat_encodeW, secondByte, lowByte, toNat_extract, toNat_extract]
  omega

theorem encode_of_decodeH {mk : BitVec 2 → BitVec 1 → BitVec 1 → Byte → Byte → Instr} (h : decodeH mk w = .ok i)
    (hmk : ∀ tt bc dir node obj, encode (mk tt bc dir node obj) = encodeH op tt bc dir node obj)
    (hop : (opcodeOf w).toNat = op.toNat) : encode i = w := by
  obtain ⟨hres, rfl⟩ := decodeH_eq_ok.mp h
  rw [extract_eq_zero_iff] at hres
  rw [toNat_opcodeOf] at hop
  apply BitVec.eq_of_toNat_eq
  simp only [hmk, toNat_encodeH, secondByte, lowByte, toNat_extract]
  omega

theorem encode_of_decodeI {mk : BitVec 24 → Instr} (h : decodeI mk w = .ok i)
    (hmk : ∀ imm, encode (mk imm) = encodeI op imm) (hop : (opcodeOf w).toNat = op.toNat) : encode i = w := by
  obtain rfl := decodeI_eq_ok.mp h
  rw [toNat_opcodeOf] at hop
  apply BitVec.eq_of_toNat_eq
  rw [hmk, toNat_encodeI, toNat_extract]
  omega

end Formats

/-- A word that decodes to a command is that command's word. -/
theorem encode_of_decode {w : Word} {i : Instr} (h : decode w = .ok i) : encode i = w := by
  unfold decode at h
  split at h
  case h_1 hop | h_6 hop | h_7 hop | h_9 hop | h_12 hop | h_15 hop => exact encode_of_decodeN h rfl hop
  case h_2 hop | h_5 hop | h_8 hop | h_14 hop => exact encode_of_decodeB h (fun _ => rfl) hop
  case h_3 hop | h_13 hop => exact encode_of_decodeW h (fun _ _ => rfl) hop
  case h_4 hop => exact encode_of_decodeH h (fun _ _ _ _ _ => rfl) hop
  case h_10 hop | h_11 hop => exact encode_of_decodeI h (fun _ => rfl) hop
  case h_16 => cases h

/-- Settles O2: `encode_of_decode`. -/
theorem encodeOfDecodeIsTheWord : Obligations.EncodeOfDecodeIsTheWord := fun _ _ => encode_of_decode

/-! ### The rows of the opcode map (rule R63) -/

/-- The mask of the bits `[lo + k - 1 : lo]` of a word's operand field `[23:0]`. -/
def reservedMask (lo k : Nat) : BitVec 24 := (BitVec.allOnes k).setWidth 24 <<< lo

/-- What the mask of a field keeps is 0 exactly when the field is. -/
theorem and_reservedMask_eq_zero_iff {lo k : Nat} (h : lo + k ≤ 24) (x : BitVec 24) :
    x &&& reservedMask lo k = 0#24 ↔ x.extractLsb' lo k = 0#k := by
  simp only [BitVec.eq_of_getLsbD_eq_iff, reservedMask, BitVec.getLsbD_and, BitVec.getLsbD_shiftLeft,
    BitVec.getLsbD_setWidth, BitVec.getLsbD_allOnes, BitVec.getLsbD_extractLsb', BitVec.getLsbD_zero]
  constructor
  · intro hx j hj
    have hbit := hx (lo + j) (by omega)
    grind
  · intro hx j hj
    have hbit := hx (j - lo)
    grind

/-- A mask that covers the opcode acts on the operand field alone. -/
theorem and_opcode_append (w : Word) (m : BitVec 24) :
    w &&& (0xFF#8 ++ m) = opcodeOf w ++ (w.extractLsb' 0 24 &&& m) := by
  have hw : opcodeOf w ++ w.extractLsb' 0 24 = w := BitVec.extractLsb'_append_extractLsb' (w := 8) (len := 24)
  have hop : opcodeOf w &&& 0xFF#8 = opcodeOf w := BitVec.and_allOnes
  conv_lhs => rw [← hw, BitVec.and_append, hop]

section Rows
variable {w : Word} {op : Byte}

/-- With its opcode in place, a word is selected exactly when the reserved field is 0 (rules R63, R64). -/
theorem and_eq_encodeN_iff (hop : opcodeOf w = op) {lo k : Nat} (h : lo + k ≤ 24) :
    w &&& (0xFF#8 ++ reservedMask lo k) = encodeN op ↔ w.extractLsb' lo k = 0#k := by
  rw [and_opcode_append, hop, encodeN, BitVec.append_right_inj, and_reservedMask_eq_zero_iff h,
    BitVec.extractLsb'_extractLsb'_of_le h]

/-- An operand of the opcode map, taken by arithmetic, is the field of the word (rule R62). -/
theorem ofNat_fieldNat (w : Word) (lo k : Nat) : BitVec.ofNat k (fieldNat w lo k) = w.extractLsb' lo k := by
  apply BitVec.eq_of_toNat_eq
  rw [BitVec.toNat_ofNat, toNat_extract, fieldNat, Nat.mod_mod]

/-! Each format's decoder as a row of the opcode map: match, mask and operands (rules R57 to R63). -/

theorem decodeN_eq_row (hop : opcodeOf w = op) (i : Instr) : decodeN i w =
    if w &&& (0xFF#8 ++ reservedMask 0 24) = encodeN op then .ok i else .error .reservedBits := by
  simp only [decodeN, and_eq_encodeN_iff hop (show 0 + 24 ≤ 24 by decide)]

theorem decodeB_eq_row (hop : opcodeOf w = op) (mk : Byte → Instr) : decodeB mk w =
    if w &&& (0xFF#8 ++ reservedMask 8 16) = encodeN op then .ok (mk (.ofNat 8 (fieldNat w 0 8)))
    else .error .reservedBits := by
  simp only [decodeB, lowByte, ofNat_fieldNat, and_eq_encodeN_iff hop (show 8 + 16 ≤ 24 by decide)]

theorem decodeW_eq_row (hop : opcodeOf w = op) (mk : Byte → Byte → Instr) : decodeW mk w =
    if w &&& (0xFF#8 ++ reservedMask 16 8) = encodeN op then
      .ok (mk (.ofNat 8 (fieldNat w 8 8)) (.ofNat 8 (fieldNat w 0 8)))
    else .error .reservedBits := by
  simp only [decodeW, secondByte, lowByte, ofNat_fieldNat, and_eq_encodeN_iff hop (show 16 + 8 ≤ 24 by decide)]

theorem decodeH_eq_row (hop : opcodeOf w = op) (mk : BitVec 2 → BitVec 1 → BitVec 1 → Byte → Byte → Instr) :
    decodeH mk w =
    if w &&& (0xFF#8 ++ reservedMask 16 4) = encodeN op then
      .ok (mk (.ofNat 2 (fieldNat w 22 2)) (.ofNat 1 (fieldNat w 21 1)) (.ofNat 1 (fieldNat w 20 1))
        (.ofNat 8 (fieldNat w 8 8)) (.ofNat 8 (fieldNat w 0 8)))
    else .error .reservedBits := by
  simp only [decodeH, secondByte, lowByte, ofNat_fieldNat, and_eq_encodeN_iff hop (show 16 + 4 ≤ 24 by decide)]

/-- Format I has no reserved bits: its mask is the opcode's alone. -/
theorem decodeI_eq_row (hop : opcodeOf w = op) (mk : BitVec 24 → Instr) : decodeI mk w =
    if w &&& (0xFF#8 ++ reservedMask 0 0) = encodeN op then .ok (mk (.ofNat 24 (fieldNat w 0 24)))
    else .error .reservedBits := by
  rw [if_pos ((and_eq_encodeN_iff hop (Nat.zero_le 24)).mpr BitVec.of_length_zero), ofNat_fieldNat, decodeI]

end Rows

/-- A word whose opcode is a row's is that row's command, or is illegal by a reserved bit (rule R64). -/
theorem decode_of_row {w : Word} {r : OpcodeRow} (hr : r ∈ opcodeTable) (hop : opcodeOf w = opcodeOf r.mtch) :
    decode w = if w &&& r.mask = r.mtch then .ok (r.instr w) else .error .reservedBits := by
  simp only [opcodeTable, checksumRows, codecRows, quantizerStatusRows, List.cons_append, List.nil_append,
    List.mem_cons, List.not_mem_nil, or_false] at hr
  rcases hr with rfl | rfl | rfl | rfl | rfl | rfl | rfl | rfl | rfl | rfl | rfl | rfl | rfl | rfl | rfl <;>
    rw [decode, hop]
  exacts [decodeN_eq_row hop .csClr, decodeB_eq_row hop .csAdd, decodeW_eq_row hop .csChk,
    decodeH_eq_row hop .encHdr, decodeB_eq_row hop .encPush, decodeN_eq_row hop .encEnd,
    decodeN_eq_row hop .decClr, decodeB_eq_row hop .decPush, decodeN_eq_row hop .decEnd,
    decodeI_eq_row hop .qLdv, decodeI_eq_row hop .qLdn, decodeN_eq_row hop .qToreg,
    decodeW_eq_row hop .qFrom16, decodeB_eq_row hop .qFrom8, decodeN_eq_row hop .stClr]

/-- The opcodes of the map's rows, as numbers. -/
def mapOpcodes : List Nat := opcodeTable.map fun r => (opcodeOf r.mtch).toNat

/-- The numbers in the table of rule R63. -/
theorem mapOpcodes_eq : mapOpcodes =
    [0x10, 0x11, 0x12, 0x20, 0x21, 0x22, 0x30, 0x31, 0x32, 0x40, 0x41, 0x42, 0x43, 0x44, 0xF0] := by decide

theorem toNat_mem_mapOpcodes {op : Byte} : op.toNat ∈ mapOpcodes ↔ ∃ r ∈ opcodeTable, op = opcodeOf r.mtch := by
  simp only [mapOpcodes, List.mem_map, BitVec.toNat_inj, eq_comm]

/-- A word is rejected for its opcode exactly when the opcode is in no row (rules R64, R65). -/
theorem decode_eq_reservedOpcode_iff {w : Word} :
    decode w = .error .reservedOpcode ↔ (opcodeOf w).toNat ∉ mapOpcodes := by
  constructor
  · intro h hmem
    obtain ⟨r, hr, hop⟩ := toNat_mem_mapOpcodes.mp hmem
    rw [decode_of_row hr hop] at h
    split at h <;> cases h
  · intro h
    unfold decode
    split
    case h_16 => rfl
    all_goals
      rename_i hop
      exact absurd (by rw [hop, mapOpcodes_eq]; decide) h

/-- The opcodes of any two rows differ. -/
theorem opcodes_pairwise_ne : opcodeTable.Pairwise fun r r' => opcodeOf r.mtch ≠ opcodeOf r'.mtch := by decide

/-- What every row prints: the mask covers the opcode, and the match is the opcode followed by zeros, so that the mask
takes nothing from it. -/
theorem row_masks_match : ∀ r ∈ opcodeTable, opcodeOf r.mask = 0xFF#8 ∧ r.mtch &&& r.mask = r.mtch ∧
    encodeN (opcodeOf r.mtch) = r.mtch := by decide

/-- Every row's mask covers the opcode, so a word has the opcode of a row that selects it. -/
theorem opcodeOf_eq_of_selects {w : Word} {r : OpcodeRow} (hr : r ∈ opcodeTable) (h : w &&& r.mask = r.mtch) :
    opcodeOf w = opcodeOf r.mtch := by
  obtain ⟨hmask, -, -⟩ := row_masks_match r hr
  have hand : opcodeOf (w &&& r.mask) = opcodeOf w &&& opcodeOf r.mask := BitVec.extractLsb'_and
  rw [← h, hand, hmask]
  exact BitVec.and_allOnes.symm

/-- Settles O4: two rows that match a word have its opcode, and the opcodes of two rows differ. -/
theorem opcodeRowsNeverOverlap : Obligations.OpcodeRowsNeverOverlap := by
  refine fun w => opcodes_pairwise_ne.imp_of_mem fun hr hr' hne ⟨hsel, hsel'⟩ => hne ?_
  rw [← opcodeOf_eq_of_selects hr hsel, ← opcodeOf_eq_of_selects hr' hsel']

/-- A word that is not rejected for its opcode has the opcode of a row. -/
theorem exists_row_of_decode_ne {w : Word} (h : decode w ≠ .error .reservedOpcode) :
    ∃ r ∈ opcodeTable, opcodeOf w = opcodeOf r.mtch :=
  toNat_mem_mapOpcodes.mp (not_not.mp (mt decode_eq_reservedOpcode_iff.mpr h))

/-- A command is decoded exactly from the words its row selects. -/
theorem decode_eq_ok_iff {w : Word} {i : Instr} :
    decode w = .ok i ↔ ∃ r ∈ opcodeTable, w &&& r.mask = r.mtch ∧ r.instr w = i := by
  constructor
  · intro h
    obtain ⟨r, hr, hop⟩ := exists_row_of_decode_ne (w := w) (by simp [h])
    rw [decode_of_row hr hop] at h
    split at h
    · rename_i hsel
      cases h
      exact ⟨r, hr, hsel, rfl⟩
    · cases h
  · rintro ⟨r, hr, hsel, rfl⟩
    rw [decode_of_row hr (opcodeOf_eq_of_selects hr hsel), if_pos hsel]

/-- Of elements no two of which pass, a filter keeps one that passes and no other. -/
theorem filter_eq_singleton {α : Type} {p : α → Bool} {l : List α} (hl : l.Pairwise fun a b => ¬ (p a ∧ p b)) {a : α}
    (ha : a ∈ l) (hp : p a) : l.filter p = [a] := by
  induction l with
  | nil => cases ha
  | cons b l ih =>
    obtain ⟨hb, hl⟩ := List.pairwise_cons.mp hl
    rcases List.mem_cons.mp ha with rfl | ha
    · rw [List.filter_cons_of_pos hp, List.filter_eq_nil_iff.mpr fun x hx hpx => hb x hx ⟨hp, hpx⟩]
    · rw [List.filter_cons_of_neg fun hpb => hb a ha ⟨hpb, hp⟩, ih hl ha]

theorem selects_iff {r : OpcodeRow} {w : Word} : r.selects w = true ↔ w &&& r.mask = r.mtch := beq_iff_eq

/-- The map gives a word a command exactly by a row that selects it (rule R64). -/
theorem decodeByTable_eq_some_iff {w : Word} {i : Instr} :
    decodeByTable w = some i ↔ ∃ r ∈ opcodeTable, w &&& r.mask = r.mtch ∧ r.instr w = i := by
  constructor
  · intro h
    unfold decodeByTable at h
    split at h
    · rename_i r hf
      have hmem : r ∈ opcodeTable.filter (·.selects w) := hf ▸ List.mem_singleton_self r
      obtain ⟨hr, hsel⟩ := List.mem_filter.mp hmem
      exact ⟨r, hr, selects_iff.mp hsel, Option.some.inj h⟩
    · cases h
  · rintro ⟨r, hr, hsel, rfl⟩
    have hone : opcodeTable.Pairwise fun r r' => ¬ (r.selects w ∧ r'.selects w) := by
      simpa only [selects_iff] using opcodeRowsNeverOverlap w
    rw [decodeByTable, filter_eq_singleton hone hr (selects_iff.mpr hsel)]

/-- A word is rejected for its reserved bits exactly when its opcode is a row's and the row does not select it. -/
theorem decode_eq_reservedBits_iff {w : Word} : decode w = .error .reservedBits ↔
    ∃ r ∈ opcodeTable, opcodeOf w = opcodeOf r.mtch ∧ w &&& r.mask ≠ r.mtch := by
  constructor
  · intro h
    obtain ⟨r, hr, hop⟩ := exists_row_of_decode_ne (w := w) (by simp [h])
    refine ⟨r, hr, hop, fun hsel => ?_⟩
    rw [decode_of_row hr hop, if_pos hsel] at h
    cases h
  · rintro ⟨r, hr, hop, hsel⟩
    rw [decode_of_row hr hop, if_neg hsel]

/-- Settles O3: a word's opcode is one row's or none's, and with a row's the mask tells its command from a reserved bit. -/
theorem decodeFollowsTheOpcodeMap : Obligations.DecodeFollowsTheOpcodeMap := by
  refine ⟨fun w i => decode_eq_ok_iff.trans decodeByTable_eq_some_iff.symm, fun w => ?_, fun w =>
    decode_eq_reservedBits_iff⟩
  rw [decode_eq_reservedOpcode_iff, toNat_mem_mapOpcodes]
  push Not
  rfl

/-- The match of a row is a word of its command, every operand 0. -/
theorem decode_mtch {r : OpcodeRow} (hr : r ∈ opcodeTable) : decode r.mtch = .ok (r.instr r.mtch) := by
  obtain ⟨-, hsel, -⟩ := row_masks_match r hr
  rw [decode_of_row hr rfl, if_pos hsel]

/-! ### The reserved opcodes (rule R65) -/

/-- An opcode followed by zeros is a command's word exactly when the opcode is in the map. -/
theorem decode_encodeN_isOk (op : Byte) : (decode (encodeN op)).isOk = decide (op.toNat ∈ mapOpcodes) := by
  by_cases hop : op.toNat ∈ mapOpcodes
  · obtain ⟨r, hr, rfl⟩ := toNat_mem_mapOpcodes.mp hop
    obtain ⟨-, -, hmtch⟩ := row_masks_match r hr
    rw [hmtch, decode_mtch hr, decide_eq_true hop]
    rfl
  · have herr : decode (encodeN op) = .error .reservedOpcode :=
      decode_eq_reservedOpcode_iff.mpr (by rwa [opcodeOf_encodeN])
    rw [herr, decide_eq_false hop]
    rfl

/-- An opcode's number above 24 zero bits is the opcode in format N. -/
theorem ofNat_mul_eq_encodeN (op : Nat) : BitVec.ofNat 32 (op * 2 ^ 24) = encodeN (.ofNat 8 op) := by
  apply BitVec.eq_of_toNat_eq
  rw [toNat_encodeN, BitVec.toNat_ofNat, BitVec.toNat_ofNat]
  omega

/-- The map's fifteen opcodes are distinct bytes, so 241 of the 256 are left (rule R65). -/
theorem length_filter_not_mem_mapOpcodes :
    ((List.range 256).filter fun op => !decide (op ∈ mapOpcodes)).length = 241 := by
  have hbyte : ∀ op ∈ mapOpcodes, op < 256 := by rw [mapOpcodes_eq]; decide
  have hnodup : mapOpcodes.Nodup := by rw [mapOpcodes_eq]; decide
  have hlen : mapOpcodes.length = 15 := rfl
  have hperm : ((List.range 256).filter fun op => decide (op ∈ mapOpcodes)).Perm mapOpcodes := by
    refine (List.perm_ext_iff_of_nodup (List.nodup_range.filter _) hnodup).mpr fun op => ?_
    simpa using hbyte op
  have hsplit := List.length_eq_length_filter_add (l := List.range 256) fun op => decide (op ∈ mapOpcodes)
  rw [hperm.length_eq, hlen, List.length_range] at hsplit
  omega

/-- Settles O43: the ranges are the numbers below 256 that are no row's opcode, and 15 of the 256 are. -/
theorem reservedOpcodesAreIllegal : Obligations.ReservedOpcodesAreIllegal := by
  constructor
  · intro w
    have hw := w.isLt
    rw [decode_eq_reservedOpcode_iff, mapOpcodes_eq, toNat_opcodeOf]
    simp only [List.mem_cons, List.not_mem_nil, or_false]
    omega
  · rw [← length_filter_not_mem_mapOpcodes]
    refine congrArg List.length (List.filter_congr fun op hop => ?_)
    have hlt : op < 256 := List.mem_range.mp hop
    have hok := decode_encodeN_isOk (.ofNat 8 op)
    rw [BitVec.toNat_ofNat, Nat.mod_eq_of_lt hlt] at hok
    rw [ofNat_mul_eq_encodeN, ← hok]
    cases decode (encodeN (.ofNat 8 op)) <;> rfl

/-! ### The assembler (rule R67) -/

/-- A value that fits its field is read back from it. -/
theorem toNat_ofNat_of_fits {n v : Nat} (h : fits n v = true) : (BitVec.ofNat n v).toNat = v :=
  Nat.mod_eq_of_lt (of_decide_eq_true h)

/-- The command of a written form whose operands fit is written that way: no operand is truncated. -/
theorem toAsm_command {l : AsmLine} (h : l.wellFormed = true) : l.command.toAsm = l := by
  cases l <;> simp only [AsmLine.wellFormed, Bool.and_eq_true] at h <;>
    simp only [AsmLine.command, Instr.toAsm, toNat_ofNat_of_fits, h]

section Formats
variable (op : BitVec 8) (tt : BitVec 2) (bc dir : BitVec 1) (hi lo : Byte) (imm : BitVec 24)

/-! The number each format makes, its operands or-ed in as the table of rule R67 prints it. -/

theorem toNat_encodeN_eq_or : (encodeN op).toNat = op.toNat <<< 24 := by
  rw [toNat_encodeN, Nat.shiftLeft_eq]

theorem toNat_encodeB_eq_or : (encodeB op lo).toNat = op.toNat <<< 24 ||| lo.toNat := by
  simp only [encodeB, BitVec.toNat_append, BitVec.toNat_ofNat, Nat.zero_mod, Nat.or_zero, ← Nat.shiftLeft_add]

theorem toNat_encodeW_eq_or : (encodeW op hi lo).toNat = op.toNat <<< 24 ||| hi.toNat <<< 8 ||| lo.toNat := by
  simp only [encodeW, BitVec.toNat_append, BitVec.toNat_ofNat, Nat.zero_mod, Nat.or_zero, Nat.shiftLeft_or_distrib,
    ← Nat.shiftLeft_add]

theorem toNat_encodeH_eq_or : (encodeH op tt bc dir hi lo).toNat = op.toNat <<< 24 ||| tt.toNat <<< 22 |||
    bc.toNat <<< 21 ||| dir.toNat <<< 20 ||| hi.toNat <<< 8 ||| lo.toNat := by
  simp only [encodeH, BitVec.toNat_append, BitVec.toNat_ofNat, Nat.zero_mod, Nat.or_zero, Nat.shiftLeft_or_distrib,
    ← Nat.shiftLeft_add]

theorem toNat_encodeI_eq_or : (encodeI op imm).toNat = op.toNat <<< 24 ||| imm.toNat := by
  rw [encodeI, BitVec.toNat_append]

end Formats

/-- The number of a command's word is the one the table's arithmetic gives its written form. -/
theorem toNat_encode (i : Instr) : (encode i).toNat = i.toAsm.wordNumber := by
  cases i <;> simp only [encode, Instr.toAsm, AsmLine.wordNumber, toNat_encodeN_eq_or, toNat_encodeB_eq_or,
    toNat_encodeW_eq_or, toNat_encodeH_eq_or, toNat_encodeI_eq_or, BitVec.reduceToNat]

/-- Settles O6: the word of a form that passes the check is the word of its command, which is written as that form. -/
theorem assemblerNeverTruncates : Obligations.AssemblerNeverTruncates := by
  refine fun l => ⟨fun h => ⟨encode l.command, if_pos h, ?_, l.command, decode_encode _, toAsm_command h⟩, fun h => ?_⟩
  · rw [toNat_encode, toAsm_command h]
  · rw [AsmLine.assemble, h]
    rfl

/-! ### Words and steps -/

/-- Settles O5: each word is evaluated. -/
theorem wordsOfTheSpecDecode : Obligations.WordsOfTheSpecDecode := by
  unfold Obligations.WordsOfTheSpecDecode
  decide

/-- Settles O7: a step gives the oldest pending word to the command port, and a word placed for the next step is the
oldest. -/
theorem stepRunsTheDecodedCommand : Obligations.StepRunsTheDecodedCommand := by
  refine ⟨fun s w rest i hp hw => ?_, fun s w i hw => ?_, fun s w rest e hp hw => ?_⟩
  · exact (step_of_port_eq_cons hp).trans (acceptWord_of_ok hw _)
  · rw [State.withFetchWord, tableWord_toNat]
    exact (step_of_port_eq_cons (a := .command w) (rest := s.port) rfl).trans (acceptWord_of_ok hw s)
  · exact (step_of_port_eq_cons hp).trans (acceptWord_of_error hw _)

end Sys2Proof.Machine

/-! PROOFS of the statements about the codec (41_codec.md): a command's words by its row of the opcode map (rule R63), the
sequences ENCODE and DECODE (rules R68, R74, R80), the source's Decode and its inverse (rules R75, R81, R84), bit flips
(rule R82), and each encoder and decoder command (rules R69 to R79). -/

namespace Sys2Proof.Machine

/-! ### The words of a command (rule R63) -/

/-- A row gives its words the command it names. -/
theorem mnemonic_instr {r : OpcodeRow} (hr : r ∈ opcodeTable) (w : Word) : (r.instr w).mnemonic = r.mnemonic := by
  simp only [opcodeTable, checksumRows, codecRows, quantizerStatusRows, List.cons_append, List.nil_append,
    List.mem_cons, List.not_mem_nil, or_false] at hr
  rcases hr with rfl | rfl | rfl | rfl | rfl | rfl | rfl | rfl | rfl | rfl | rfl | rfl | rfl | rfl | rfl <;> rfl

/-- A mnemonic names one row. -/
theorem row_of_mnemonic : ∀ r ∈ opcodeTable, ∀ r' ∈ opcodeTable, r.mnemonic = r'.mnemonic →
    r.mtch = r'.mtch ∧ r.mask = r'.mask := by decide

/-- The words of a command are those of its row's match and mask. -/
theorem hasEncoding_of_mem {r : OpcodeRow} (hr : r ∈ opcodeTable) : HasEncoding r.mnemonic r.mtch r.mask := by
  intro w
  constructor
  · exact fun hsel => ⟨r.instr w, decode_eq_ok_iff.mpr ⟨r, hr, hsel, rfl⟩, mnemonic_instr hr w⟩
  · rintro ⟨i, hi, hname⟩
    obtain ⟨r', hr', hsel, rfl⟩ := decode_eq_ok_iff.mp hi
    obtain ⟨hmtch, hmask⟩ := row_of_mnemonic r' hr' r hr ((mnemonic_instr hr' w).symm.trans hname)
    rwa [← hmtch, ← hmask]

/-! ### Issuing commands -/

/-- The word of a command on the command port runs the command. -/
theorem performAction_encode (i : Instr) (s : State) : performAction (.command (encode i)) s = exec i s :=
  acceptWord_of_ok (decode_encode i) s

theorem issue_cons {i : Instr} {s t : State} (h : exec i s = .next t) (is : List Instr) :
    issue (i :: is) s = issue is t :=
  performAll_cons_of_next ((performAction_encode i s).trans h) _

theorem issue_append {is : List Instr} {s t : State} (h : issue is s = .next t) (js : List Instr) :
    issue (is ++ js) s = issue js t := by
  rw [issue, List.map_append]
  exact performAll_append _ _ s t h

theorem issue_singleton (i : Instr) (s : State) : issue [i] s = exec i s := by
  obtain ⟨t, ht, -⟩ := exec_next i s
  exact (issue_cons ht []).trans ht.symm

/-- A command that takes the state of a byte sequence to the state of the sequence with its operand appended, issued for
each byte of `bs`. -/
theorem issue_map {f : Byte → Instr} {state : List Byte → State}
    (h : ∀ as b, exec (f b) (state as) = .next (state (as ++ [b]))) (bs as : List Byte) :
    issue (bs.map f) (state as) = .next (state (as ++ bs)) := by
  induction bs generalizing as with
  | nil => rw [List.append_nil]; rfl
  | cons b bs ih => rw [List.map_cons, issue_cons (h as b), ih, List.append_cons as b bs]

/-- Pushing bytes on an empty payload (rules R23, R72). -/
theorem issue_encPush (bs : List Byte) (s : State) :
    issue (bs.map .encPush) (s.setTxPay TxPayload.empty) = .next (s.setTxPay (payloadOf bs)) := by
  rw [← payloadOf_nil]
  exact issue_map (f := .encPush) (state := fun as => s.setTxPay (payloadOf as))
    (fun as b => congrArg (fun p => Host.Outcome.next (s.setTxPay p)) (push_payloadOf as b)) bs []

/-- Pushing bytes on an empty stream (rules R34, R78). -/
theorem issue_decPush (bs : List Byte) (s : State) :
    issue (bs.map .decPush) (s.setRx RxStream.empty) = .next (s.setRx (streamOf bs)) := by
  rw [← streamOf_nil]
  exact issue_map (f := .decPush) (state := fun as => s.setRx (streamOf as))
    (fun as b => congrArg (fun r => Host.Outcome.next (s.setRx r)) (push_streamOf as b)) bs []

/-- ENCODE is ENC_END on the header given and the bytes pushed (rule R68). -/
theorem issue_encode (tt : BitVec 2) (bc dir : BitVec 1) (node obj : Byte) (p : List Byte) (s : State) :
    (Pseudo.encode tt bc dir node obj p).issue s =
      exec .encEnd ((s.setTxHdr ⟨tt, bc, dir, node, obj⟩).setTxPay (payloadOf p)) := by
  have hpush : issue (.encHdr tt bc dir node obj :: p.map .encPush) s = _ :=
    (issue_cons rfl _).trans (issue_encPush p (s.setTxHdr ⟨tt, bc, dir, node, obj⟩))
  exact (issue_append hpush [.encEnd]).trans (issue_singleton _ _)

/-- DECODE is DEC_END on the bytes pushed (rule R68). -/
theorem issue_decode (raw : List Byte) (s : State) :
    (Pseudo.decode raw).issue s = exec .decEnd (s.setRx (streamOf raw)) := by
  have hpush : issue (.decClr :: raw.map .decPush) s = _ := (issue_cons rfl _).trans (issue_decPush raw s)
  exact (issue_append hpush [.decEnd]).trans (issue_singleton _ _)

/-- What ENCODE leaves, by the payload's length (rule R74). -/
theorem issue_encode_cases (tt : BitVec 2) (bc dir : BitVec 1) (node obj : Byte) (p : List Byte) (s : State) :
    ∃ t, (Pseudo.encode tt bc dir node obj p).issue s = .next t ∧
      ((1 ≤ p.length ∧ p.length ≤ 16) ∧ t.status.enc = .ok ∧
          t.txOut = TxFrame.holding ⟨tt, bc, dir, node, obj⟩ (payloadOf p) ∨
        ¬ (1 ≤ p.length ∧ p.length ≤ 16) ∧ t.status.enc = .lengthError ∧ t.txOut = TxFrame.empty) := by
  rw [issue_encode, ← verdict_payloadOf_eq_ok]
  rcases execEncEnd_cases ((s.setTxHdr ⟨tt, bc, dir, node, obj⟩).setTxPay (payloadOf p)) with ⟨hv, he⟩ | ⟨hv, he⟩
  · exact ⟨_, he, .inl ⟨hv, rfl, rfl⟩⟩
  · exact ⟨_, he, .inr ⟨fun hok => (nomatch hok.symm.trans hv), rfl, rfl⟩⟩

/-! ### The source's Decode (rules R70, R75) -/

/-- A byte pair is the trailer of its value (rules R39, R40). -/
theorem trailer_pairValue (hi lo : Byte) : trailer (pairValue hi lo) = [hi, lo] := by
  have hlo := lo.isLt
  have hhi := hi.isLt
  simp only [trailer, List.cons.injEq, and_true]
  constructor <;> apply BitVec.eq_of_toNat_eq <;>
    rw [BitVec.extractLsb'_toNat, toNat_pairValue, Nat.shiftRight_eq_div_pow] <;> omega

theorem pairValue_inj {hi lo hi' lo' : Byte} (h : pairValue hi lo = pairValue hi' lo') : hi = hi' ∧ lo = lo' := by
  have htrailer := congrArg trailer h
  rw [trailer_pairValue, trailer_pairValue] at htrailer
  simpa using htrailer

/-- Two bytes or more are a body and a two-byte trailer. -/
theorem exists_append_pair {raw : List Byte} (h : 2 ≤ raw.length) : ∃ body hi lo, raw = body ++ [hi, lo] := by
  refine ⟨raw.take (raw.length - 2), raw[raw.length - 2], raw[raw.length - 1], ?_⟩
  conv_lhs => rw [← List.take_append_drop (raw.length - 2) raw]
  rw [List.drop_eq_getElem_cons (by omega), List.drop_eq_getElem_cons (by omega), List.drop_of_length_le (by omega)]
  simp only [show raw.length - 2 + 1 = raw.length - 1 by omega]

/-- Decode of a body and its trailer: the checksum, then the length (rule R75). -/
theorem decodeTelegram_append_pair (body : List Byte) (hi lo : Byte) : decodeTelegram (body ++ [hi, lo]) =
    if csum16 body ≠ pairValue hi lo then .checksumMismatch
    else if body.length - 3 ≠ declaredLength ((body ++ [hi, lo]).getD 0 0) then .lengthMismatch
    else .ok ((body ++ [hi, lo]).getD 0 0) ((body ++ [hi, lo]).getD 1 0) ((body ++ [hi, lo]).getD 2 0)
      (body.drop 3) := by
  simp only [decodeTelegram, ← BitVec.toNat_inj (x := csum16 body), ne_eq, toNat_pairValue]
  simp

theorem decodeTelegram_of_length_lt {raw : List Byte} (h : raw.length < 2) : decodeTelegram raw = .lengthMismatch :=
  if_pos h

/-- Decode accepts exactly the sealed telegrams whose delimiter declares the payload's length (rules R75, R81). -/
theorem decodeTelegram_eq_ok_iff {raw : List Byte} {d node obj : Byte} {p : List Byte} :
    decodeTelegram raw = .ok d node obj p ↔
      raw = sealTelegram (d :: node :: obj :: p) ∧ declaredLength d = p.length := by
  constructor
  · intro h
    by_cases h2 : raw.length < 2
    · rw [decodeTelegram_of_length_lt h2] at h; cases h
    obtain ⟨body, hi, lo, rfl⟩ := exists_append_pair (Nat.le_of_not_lt h2)
    rw [decodeTelegram_append_pair] at h
    split_ifs at h with hsum hlen
    rw [ne_eq, not_not] at hsum hlen
    obtain ⟨hd1, -⟩ := declaredLength_bounds ((body ++ [hi, lo]).getD 0 0)
    obtain _ | ⟨b0, _ | ⟨b1, _ | ⟨b2, rest⟩⟩⟩ := body
    case cons.cons.cons =>
      cases h
      have hseal : sealTelegram (b0 :: b1 :: b2 :: rest) = b0 :: b1 :: b2 :: rest ++ [hi, lo] := by
        rw [sealTelegram, hsum, trailer_pairValue]
      exact ⟨hseal.symm, hlen.symm⟩
    all_goals
      change 0 = _ at hlen
      omega
  · rintro ⟨rfl, hd⟩
    exact decodeTelegram_sealTelegram hd

/-! ### The stream against the source's Decode (rules R34, R80) -/

/-- RX_N counts the bytes pushed, up to 255 (rule R25). -/
theorem toNat_n_streamOf (bs : List Byte) : (streamOf bs).n.toNat = min bs.length 255 := by
  rw [streamOf, BitVec.toNat_ofNat, Config.rxCountMax]
  omega

/-- DEC_END's verdict on the bytes pushed is what Decode returns; a stream past the counter's end is longer than any
declared length. -/
theorem verdict_streamOf (raw : List Byte) : (streamOf raw).verdict = (decodeTelegram raw).stat := by
  have hn := toNat_n_streamOf raw
  by_cases h2 : raw.length < 2
  · rw [decodeTelegram_of_length_lt h2, RxStream.verdict, if_pos (by omega)]
    rfl
  have hdelim : byteAt (streamOf raw).raw 0 = raw.getD 0 0 := byteAt_padTo raw (by decide)
  obtain ⟨-, hd⟩ := declaredLength_bounds (raw.getD 0 0)
  obtain ⟨body, hi, lo, rfl⟩ := exists_append_pair (Nat.le_of_not_lt h2)
  have hlength : (body ++ [hi, lo]).length = body.length + 2 := List.length_append
  have hsum : (streamOf (body ++ [hi, lo])).sum = csum16 body := by simp [streamOf]
  have hw1 : (streamOf (body ++ [hi, lo])).w1 = hi := by simp [streamOf]
  have hw0 : (streamOf (body ++ [hi, lo])).w0 = lo := by simp [streamOf]
  have hplen : (streamOf (body ++ [hi, lo])).plen = min body.length 253 - 3 := by
    rw [RxStream.plen, hn]; split <;> omega
  have hlen : min body.length 253 - 3 = declaredLength ((body ++ [hi, lo]).getD 0 0) ↔
      body.length - 3 = declaredLength ((body ++ [hi, lo]).getD 0 0) := by omega
  rw [RxStream.verdict, if_neg (by omega), hsum, hw1, hw0, hdelim, hplen, decodeTelegram_append_pair]
  simp only [apply_ite DecodeResult.stat, ne_eq, ite_not, hlen]
  rfl

/-- The results of an accepted stream are what Decode returns (rule R79). -/
theorem result_streamOf {raw : List Byte} {d node obj : Byte} {p : List Byte}
    (h : decodeTelegram raw = .ok d node obj p) :
    (streamOf raw).result = ⟨d, node, obj, .ofNat 5 p.length, padTo 16 p⟩ := by
  obtain ⟨rfl, hd⟩ := decodeTelegram_eq_ok_iff.mp h
  obtain ⟨-, h16⟩ := declaredLength_bounds d
  have hlength : (sealTelegram (d :: node :: obj :: p)).length = p.length + 5 := length_sealTelegram _
  have hplen : (streamOf (sealTelegram (d :: node :: obj :: p))).plen = p.length := by
    rw [RxStream.plen, streamOf, hlength, BitVec.toNat_ofNat, Config.rxCountMax]
    split <;> omega
  have hraw : (streamOf (sealTelegram (d :: node :: obj :: p))).raw = padTo 21 (sealTelegram (d :: node :: obj :: p)) :=
    rfl
  have hpay : ((padTo 21 (sealTelegram (d :: node :: obj :: p))).toList.drop 3).take p.length = p := by
    rw [toList_padTo, List.take_of_length_le (l := sealTelegram _) (by omega), sealTelegram]
    simp
  rw [RxStream.result, hplen, hraw, hpay, byteAt_padTo _ (by decide), byteAt_padTo _ (by decide),
    byteAt_padTo _ (by decide)]
  rfl

/-- What DECODE leaves: the status of what Decode returns, and its parts as results where it accepts (rule R80). -/
theorem issue_decode_cases (raw : List Byte) (s : State) :
    ∃ t, (Pseudo.decode raw).issue s = .next t ∧ t.status.dec = (decodeTelegram raw).stat ∧
      (∀ d node obj p, decodeTelegram raw = .ok d node obj p →
        t.rxOut = ⟨d, node, obj, .ofNat 5 p.length, padTo 16 p⟩) ∧
      ((decodeTelegram raw).stat ≠ .ok → t.rxOut = s.rxOut) := by
  rw [issue_decode, ← verdict_streamOf]
  rcases execDecEnd_cases (s.setRx (streamOf raw)) with ⟨hv, he⟩ | ⟨hv, he⟩
  · exact ⟨_, he, hv.symm, fun d node obj p hd => result_streamOf hd, fun hne => absurd hv hne⟩
  · refine ⟨_, he, rfl, fun d node obj p hd => absurd ?_ hv, fun _ => rfl⟩
    rw [State.setRx_rx, verdict_streamOf, hd]
    rfl

/-- The payload a host reads from RX_PAY (rule R27). -/
theorem payload_padTo (d node obj : Byte) {p : List Byte} (h16 : p.length ≤ 16) :
    (RxFrame.mk d node obj (.ofNat 5 p.length) (padTo 16 p)).payload = p := by
  have hplen : (BitVec.ofNat 5 p.length).toNat = p.length := by rw [BitVec.toNat_ofNat]; omega
  rw [RxFrame.payload, hplen]
  exact take_toList_padTo h16

/-! ### The start delimiter (rule R69) -/

theorem toNat_delim (tt : BitVec 2) (bc dir : BitVec 1) {k : Nat} (h16 : k ≤ 16) :
    (delim tt bc dir k).toNat = tt.toNat * 64 + bc.toNat * 32 + dir.toNat * 16 + (k - 1) := by
  simp only [delim, toNat_append_eq, BitVec.toNat_ofNat]
  omega

/-! ### The round trip (rule R81) -/

/-- Settles O33: ENCODE leaves the telegram of `decodeTelegram_holding`, and DECODE of it leaves what Decode returns. -/
theorem telegramRoundTrip : Obligations.TelegramRoundTrip := by
  intro tt bc dir node obj p s h1 h16
  obtain ⟨t, ht, ⟨-, -, hout⟩ | ⟨hfit, -⟩⟩ := issue_encode_cases tt bc dir node obj p s
  case inr => exact absurd ⟨h1, h16⟩ hfit
  have hdec := decodeTelegram_holding ⟨tt, bc, dir, node, obj⟩ h1 h16
  rw [← hout] at hdec
  obtain ⟨u, hu, hstat, hok, -⟩ := issue_decode_cases t.txOut.telegram t
  have hres := hok _ _ _ _ hdec
  have hfields : (hostRead u 0x0C).toNat = _ := toNat_rxFields u
  have hdelim := toNat_delim tt bc dir h16
  refine ⟨t, u, ht, hu, by rw [hstat, hdec]; rfl, ?_⟩
  rw [hfields, hres]
  refine ⟨rfl, rfl, ?_, payload_padTo _ _ _ h16, rfl, ?_⟩
  · rw [BitVec.toNat_ofNat]; omega
  · simp only [hdelim]
    omega

/-! ### The source's Encode (rule R70) -/

section Encode
variable {tt : BitVec 2} {bc dir : BitVec 1} {node obj : Byte} {p : List Byte}

/-- Encode on a payload of 1 to 16 bytes. -/
theorem encodeTelegram_of_fits (h1 : 1 ≤ p.length) (h16 : p.length ≤ 16) :
    encodeTelegram tt bc dir node obj p = some (sealTelegram (delim tt bc dir p.length :: node :: obj :: p)) :=
  if_neg (by simp only [Config.maxPayload]; omega)

/-- Encode fails on every other payload. -/
theorem encodeTelegram_of_not_fits (h : ¬ (1 ≤ p.length ∧ p.length ≤ 16)) :
    encodeTelegram tt bc dir node obj p = none :=
  if_pos (by simp only [Config.maxPayload]; omega)

theorem encodeTelegram_eq_some_iff {t : List Byte} : encodeTelegram tt bc dir node obj p = some t ↔
    (1 ≤ p.length ∧ p.length ≤ 16) ∧ sealTelegram (delim tt bc dir p.length :: node :: obj :: p) = t := by
  by_cases h : 1 ≤ p.length ∧ p.length ≤ 16
  · simp only [encodeTelegram_of_fits h.1 h.2, h, Option.some.injEq, and_self, true_and]
  · simp only [encodeTelegram_of_not_fits h, h, reduceCtorEq, false_and]

/-- What Encode gives is the telegram a host reads after ENC_END (rules R70, R73). -/
theorem encodeTelegram_eq_holding (h1 : 1 ≤ p.length) (h16 : p.length ≤ 16) : encodeTelegram tt bc dir node obj p =
    some (TxFrame.holding ⟨tt, bc, dir, node, obj⟩ (payloadOf p)).telegram := by
  rw [telegram_holding _ h16, buildTelegram_payloadOf _ h16, encodeTelegram_of_fits h1 h16]

end Encode

/-! ### The checksum of a telegram (rule R84) -/

/-- A telegram of at most nineteen bytes before its trailer has a sum that does not wrap. -/
theorem sealTelegram_sum_le {body : List Byte} (h : body.length ≤ 19) :
    (((sealTelegram body).take ((sealTelegram body).length - 2)).map BitVec.toNat).sum ≤ 4845 ∧
      ((sealTelegram body).getD ((sealTelegram body).length - 2) 0).toNat ≤ 0x12 := by
  have hbytes : (body.map BitVec.toNat).sum ≤ (body.map BitVec.toNat).length • 255 :=
    List.sum_le_card_nsmul _ _ fun x hx => by
      obtain ⟨b, -, rfl⟩ := List.mem_map.mp hx
      exact Nat.le_of_lt_succ b.isLt
  rw [List.length_map, smul_eq_mul] at hbytes
  have htrailer := trailer_sealTelegram body
  rw [toNat_csum16] at htrailer
  rw [take_sealTelegram]
  omega

/-- Settles O26: Encode and Decode have sealed telegrams of at most nineteen bytes before the trailer. -/
theorem telegramChecksumNeverWraps : Obligations.TelegramChecksumNeverWraps := by
  constructor
  · intro tt bc dir node obj p t h
    obtain ⟨⟨-, h16⟩, rfl⟩ := encodeTelegram_eq_some_iff.mp h
    have hsum := sealTelegram_sum_le (body := delim tt bc dir p.length :: node :: obj :: p)
      (by simp only [List.length_cons]; omega)
    rwa [length_sealTelegram] at hsum
  · intro raw d node obj p h
    obtain ⟨rfl, hd⟩ := decodeTelegram_eq_ok_iff.mp h
    obtain ⟨-, h16⟩ := declaredLength_bounds d
    exact sealTelegram_sum_le (by simp only [List.length_cons]; omega)

/-! ### The sequences ENCODE and DECODE (rules R74, R80) -/

/-- Settles O25: by the payload's length, as `issue_encode_cases` splits it. -/
theorem encodeSequenceIsEncode : Obligations.EncodeSequenceIsEncode := by
  intro tt bc dir node obj p s
  obtain ⟨t, ht, ⟨hfit, henc, hout⟩ | ⟨hfit, henc, hout⟩⟩ := issue_encode_cases tt bc dir node obj p s
  · obtain ⟨h1, h16⟩ := hfit
    refine ⟨t, ht, fun _ _ => ⟨henc, ?_, ?_⟩, ?_⟩
    · rw [hout]; exact toNat_len_holding _ h16
    · rw [hout]; exact encodeTelegram_eq_holding h1 h16
    · rw [encodeTelegram_of_fits h1 h16, henc]
      exact iff_of_false nofun nofun
  · refine ⟨t, ht, fun h1 h16 => absurd ⟨h1, h16⟩ hfit, iff_of_true (encodeTelegram_of_not_fits hfit) ⟨henc, ?_⟩⟩
    rw [hout]
    rfl

/-- Settles O32: DECODE leaves what Decode returns, and what Decode accepts is a sealed telegram. -/
theorem decodeSequenceIsDecode : Obligations.DecodeSequenceIsDecode := by
  intro raw s
  obtain ⟨t, ht, hstat, hok, hkept⟩ := issue_decode_cases raw s
  refine ⟨t, ht, hstat, fun h => ?_, hkept⟩
  cases hdec : decodeTelegram raw with
  | checksumMismatch => rw [hdec] at h; cases h
  | lengthMismatch => rw [hdec] at h; cases h
  | ok d node obj p =>
    obtain ⟨rfl, hd⟩ := decodeTelegram_eq_ok_iff.mp hdec
    obtain ⟨-, h16⟩ := declaredLength_bounds d
    rw [hd] at h16
    rw [hok d node obj p hdec, payload_padTo d node obj h16, take_sealTelegram, length_sealTelegram]
    refine ⟨rfl, rfl, rfl, ?_, rfl, rfl⟩
    simp only [BitVec.toNat_ofNat, List.length_cons]
    omega

/-! ### Single-bit flips (rule R82) -/

/-- Without a carry, exclusive or adds. -/
theorem toNat_xor_of_and_eq_zero {n : Nat} {x y : BitVec n} (h : x &&& y = 0#n) :
    (x ^^^ y).toNat = x.toNat + y.toNat := by
  have hor : x ^^^ y = x ||| y := by
    ext i hi
    have hbit := congrArg (·[i]) h
    simp only [BitVec.getElem_and, BitVec.getElem_zero, BitVec.getElem_xor, BitVec.getElem_or] at hbit ⊢
    cases hx : x[i] with
    | false => rw [Bool.false_xor, Bool.false_or]
    | true => rw [hx, Bool.true_and] at hbit; rw [hbit]; rfl
  rw [hor, ← BitVec.add_eq_or_of_and_eq_zero x y h, BitVec.toNat_add_of_and_eq_zero h]

/-- A flipped bit is gained or lost. -/
theorem toNat_flip (b : Byte) {j : Nat} (hj : j < 8) :
    (b ^^^ BitVec.twoPow 8 j).toNat = b.toNat + 2 ^ j ∨ (b ^^^ BitVec.twoPow 8 j).toNat + 2 ^ j = b.toNat := by
  rw [← BitVec.toNat_twoPow_of_lt hj]
  by_cases hbit : b.getLsbD j
  · have hand : (b ^^^ BitVec.twoPow 8 j) &&& BitVec.twoPow 8 j = 0#8 := by
      simp [BitVec.and_twoPow, hbit, hj]
    right
    rw [← toNat_xor_of_and_eq_zero hand, BitVec.xor_assoc, BitVec.xor_self, BitVec.xor_zero]
  · exact .inl (toNat_xor_of_and_eq_zero (by rw [BitVec.and_twoPow, if_neg hbit]))

theorem two_pow_bounds {j : Nat} (hj : j < 8) : 0 < 2 ^ j ∧ 2 ^ j ≤ 128 :=
  ⟨Nat.two_pow_pos j, Nat.pow_le_pow_right (n := 2) (by decide) (Nat.le_of_lt_succ hj)⟩

theorem flip_ne (b : Byte) {j : Nat} (hj : j < 8) : b ^^^ BitVec.twoPow 8 j ≠ b := fun h => by
  have hflip := toNat_flip b hj
  rw [h] at hflip
  have := two_pow_bounds hj
  omega

/-- A flip in a sequence changes its checksum: the sum gains or loses at most 128. -/
theorem csum16_flipBit_ne {l : List Byte} {i j : Nat} (hi : i < l.length) (hj : j < 8) :
    csum16 (flipBit l i j) ≠ csum16 l := by
  obtain ⟨l₁, b, l₂, rfl, -, hmodify⟩ := List.exists_of_modify (fun b => b ^^^ BitVec.twoPow 8 j) hi
  have hflip := toNat_flip b hj
  have hpow := two_pow_bounds hj
  rw [flipBit, hmodify, ← BitVec.toNat_inj.ne, toNat_csum16, toNat_csum16]
  simp only [List.map_append, List.map_cons, List.sum_append, List.sum_cons]
  omega

theorem flipBit_append_of_lt {l : List Byte} {i : Nat} (hi : i < l.length) (m : List Byte) (j : Nat) :
    flipBit (l ++ m) i j = flipBit l i j ++ m := by
  rw [flipBit, flipBit, List.modify_eq_take_cons_drop (by rw [List.length_append]; omega),
    List.modify_eq_take_cons_drop hi]
  simp [List.take_append_of_le_length, List.drop_append_of_le_length, List.getElem_append_left, hi, hi.le]

theorem flipBit_append_add (l m : List Byte) (i j : Nat) :
    flipBit (l ++ m) (l.length + i) j = l ++ flipBit m i j := by
  induction l with
  | nil => simp
  | cons b l ih =>
    rw [List.length_cons, Nat.add_right_comm, List.cons_append, flipBit, List.modify_succ_cons, List.cons_append]
    exact congrArg (b :: ·) ih

/-- A flip anywhere in a sealed telegram changes the checksum of the body, or one byte of the trailer, never both. -/
theorem decodeTelegram_flipBit {body : List Byte} {i j : Nat} (hi : i < body.length + 2) (hj : j < 8) :
    decodeTelegram (flipBit (sealTelegram body) i j) = .checksumMismatch := by
  obtain ⟨hb, lb, hsum⟩ : ∃ hb lb, pairValue hb lb = csum16 body := ⟨_, _, pairValue_trailer _⟩
  rw [sealTelegram, ← hsum, trailer_pairValue]
  by_cases hbody : i < body.length
  · rw [flipBit_append_of_lt hbody, decodeTelegram_append_pair, hsum, if_pos (csum16_flipBit_ne hbody hj)]
  · obtain ⟨k, rfl⟩ := Nat.exists_eq_add_of_le (Nat.le_of_not_lt hbody)
    rw [flipBit_append_add]
    obtain rfl | rfl : k = 0 ∨ k = 1 := by omega
    · have hne : csum16 body ≠ pairValue (hb ^^^ BitVec.twoPow 8 j) lb := fun h =>
        flip_ne hb hj (pairValue_inj (hsum.trans h)).1.symm
      exact (decodeTelegram_append_pair body (hb ^^^ BitVec.twoPow 8 j) lb).trans (if_pos hne)
    · have hne : csum16 body ≠ pairValue hb (lb ^^^ BitVec.twoPow 8 j) := fun h =>
        flip_ne lb hj (pairValue_inj (hsum.trans h)).2.symm
      exact (decodeTelegram_append_pair body hb (lb ^^^ BitVec.twoPow 8 j)).trans (if_pos hne)

/-- Settles O34: Decode of the flipped telegram is a checksum mismatch, and DECODE leaves what Decode returns. -/
theorem singleBitFlipIsAChecksumMismatch : Obligations.SingleBitFlipIsAChecksumMismatch := by
  intro tt bc dir node obj p s r i j h1 h16 hi hj
  obtain ⟨t, ht, ⟨-, -, hout⟩ | ⟨hfit, -⟩⟩ := issue_encode_cases tt bc dir node obj p s
  case inr => exact absurd ⟨h1, h16⟩ hfit
  have hflip : decodeTelegram (flipBit t.txOut.telegram i j) = .checksumMismatch := by
    rw [hout, telegram_holding _ h16, buildTelegram_payloadOf _ h16]
    exact decodeTelegram_flipBit (by simp only [List.length_cons]; omega) hj
  obtain ⟨u, hu, hstat, -, hkept⟩ := issue_decode_cases (flipBit t.txOut.telegram i j) r
  rw [hflip] at hstat hkept
  exact ⟨t, u, ht, hu, hstat, hkept nofun⟩

/-! ### ENC_HDR, ENC_PUSH, ENC_END (rules R69 to R73) -/

/-- The bytes held are as many as TX_CNT says (rule R23). -/
theorem TxPayload.length_bytes {p : TxPayload} (h : p.cnt.toNat ≤ 16) : p.bytes.length = p.cnt.toNat := by
  rw [TxPayload.bytes, List.length_take, Vector.length_toList]
  omega

theorem getD_bytes {p : TxPayload} {k : Nat} (h : k < p.cnt.toNat) : p.bytes.getD k 0 = byteAt p.pay k := by
  rw [TxPayload.bytes, byteAt, List.getD_eq_getElem?_getD, List.getElem?_take_of_lt h]
  simp

/-- ENC_END's verdict is OK exactly when a byte is held and none was discarded (rule R73). -/
theorem TxPayload.verdict_eq_ok_iff (p : TxPayload) : p.verdict = .ok ↔ ¬ (p.ovf = true ∨ p.cnt = 0) := by
  rw [TxPayload.verdict, ← BitVec.toNat_inj (x := p.cnt)]
  change _ ↔ ¬ (_ ∨ p.cnt.toNat = 0)
  split <;> simp only [*, reduceCtorEq, not_true, not_false_eq_true]

/-- Before the trailer a sealed telegram reads as what was sealed (rule R70). -/
theorem getD_sealTelegram {body : List Byte} {k : Nat} (h : k < body.length) :
    (sealTelegram body).getD k 0 = body.getD k 0 := by
  rw [sealTelegram, List.getD_append _ _ _ _ h]

/-- The trailer of a telegram is its sum modulo 65536, high byte first (rules R39, R70). -/
theorem toNat_trailer_sealTelegram (body : List Byte) :
    ((sealTelegram body).getD body.length 0).toNat = (body.map BitVec.toNat).sum % 65536 / 256 ∧
      ((sealTelegram body).getD (body.length + 1) 0).toNat = (body.map BitVec.toNat).sum % 256 := by
  have hlo := ((sealTelegram body).getD (body.length + 1) 0).isLt
  have htrailer := trailer_sealTelegram body
  simp only [length_sealTelegram, Nat.add_sub_cancel, toNat_csum16,
    show body.length + 2 - 1 = body.length + 1 from rfl] at htrailer
  omega

/-- The bytes ENC_END puts before the trailer: delimiter, node, object and the payload held (rule R73). -/
def telegramBody (h : TxHeader) (p : TxPayload) : List Byte :=
  delim h.tt h.bc h.dir p.cnt.toNat :: h.node :: h.obj :: p.bytes

section Holding
variable (h : TxHeader) {p : TxPayload} (h16 : p.cnt.toNat ≤ 16)

theorem buildTelegram_eq (p : TxPayload) : buildTelegram h p = sealTelegram (telegramBody h p) := rfl

theorem sum_telegramBody (p : TxPayload) : ((telegramBody h p).map BitVec.toNat).sum =
    (delim h.tt h.bc h.dir p.cnt.toNat).toNat + h.node.toNat + h.obj.toNat + (p.bytes.map BitVec.toNat).sum := by
  simp only [telegramBody, List.map_cons, List.sum_cons, Nat.add_assoc]

include h16

theorem length_telegramBody : (telegramBody h p).length = p.cnt.toNat + 3 := by
  simp only [telegramBody, List.length_cons, TxPayload.length_bytes h16]

/-- TX_BUF before the trailer (rule R73). -/
theorem byteAt_holding {k : Nat} (hk : k < p.cnt.toNat + 3) :
    byteAt (TxFrame.holding h p).buf k = (telegramBody h p).getD k 0 := by
  rw [TxFrame.holding, byteAt_padTo _ (by omega), buildTelegram_eq,
    getD_sealTelegram (by rwa [length_telegramBody h h16])]

/-- TX_BUF's trailer (rule R73). -/
theorem trailer_holding :
    (byteAt (TxFrame.holding h p).buf (p.cnt.toNat + 3)).toNat =
        ((telegramBody h p).map BitVec.toNat).sum % 65536 / 256 ∧
      (byteAt (TxFrame.holding h p).buf (p.cnt.toNat + 4)).toNat =
        ((telegramBody h p).map BitVec.toNat).sum % 256 := by
  have htrailer := toNat_trailer_sealTelegram (telegramBody h p)
  rw [length_telegramBody h h16] at htrailer
  rwa [TxFrame.holding, byteAt_padTo _ (by omega), byteAt_padTo _ (by omega), buildTelegram_eq]

/-- TX_BUF is 0 past the telegram (rule R73). -/
theorem byteAt_holding_of_le {k : Nat} (hk : p.cnt.toNat + 5 ≤ k) : byteAt (TxFrame.holding h p).buf k = 0 :=
  byteAt_padTo_of_le (by rwa [buildTelegram_eq, length_sealTelegram, length_telegramBody h h16])

end Holding

/-- ENC_END writes TX_BUF, TX_LEN and ENC_STAT, by its verdict (rule R73). -/
theorem exec_encEnd (s : State) : ∃ t, exec .encEnd s = .next t ∧
    t = { s with txOut := t.txOut, status := { s.status with enc := t.status.enc } } ∧
    t.status.enc = s.txPay.verdict ∧
    t.txOut = if s.txPay.verdict = .ok then TxFrame.holding s.txHdr s.txPay else TxFrame.empty :=
  ⟨_, rfl, rfl, rfl, rfl⟩

/-- Settles O24: TX_BUF is empty, or holds a sealed telegram, which is read byte by byte. -/
theorem encEndBuildsTheTelegram : Obligations.EncEndBuildsTheTelegram := by
  refine ⟨hasEncoding_of_mem (r := opcodeTable[5]) (List.getElem_mem _), fun s => ?_⟩
  obtain ⟨t, ht, hframe, henc, hout⟩ := exec_encEnd s
  refine ⟨t, ht, hframe, fun herr => ?_, fun hovf hcnt h16 => ?_⟩
  · have hv : s.txPay.verdict ≠ .ok := fun hok => s.txPay.verdict_eq_ok_iff.mp hok herr
    rw [henc, hout, if_neg hv]
    exact ⟨s.txPay.verdict_eq.resolve_left hv, rfl, fun k h => Vector.getElem_replicate h⟩
  · have hv : s.txPay.verdict = .ok :=
      s.txPay.verdict_eq_ok_iff.mpr (not_or.mpr ⟨Bool.eq_false_iff.mp hovf, hcnt⟩)
    obtain ⟨hhi, hlo⟩ := trailer_holding s.txHdr h16
    rw [sum_telegramBody] at hhi hlo
    rw [henc, hout, if_pos hv]
    refine ⟨hv, ?_, byteAt_holding _ h16 (by omega), byteAt_holding _ h16 (by omega), byteAt_holding _ h16 (by omega),
      fun j hj => ?_, hhi, hlo, fun j hj => byteAt_holding_of_le _ h16 hj⟩
    · rw [TxFrame.holding, BitVec.toNat_ofNat]; omega
    · rw [byteAt_holding _ h16 (by omega), Nat.add_comm]; exact getD_bytes hj

/-- Settles O21: each field is read off the delimiter's number. -/
theorem startDelimiterLayout : Obligations.StartDelimiterLayout := by
  intro tt bc dir k h1 h16
  refine ⟨toNat_delim tt bc dir h16, ?_, ?_, ?_, declaredLength_delim tt bc dir h1 h16⟩ <;>
    rw [← BitVec.toNat_inj, BitVec.extractLsb'_toNat, Nat.shiftRight_eq_div_pow, toNat_delim tt bc dir h16] <;> omega

/-- Settles O22: the payload is emptied to `TxPayload.empty`. -/
theorem encHdrStartsATelegram : Obligations.EncHdrStartsATelegram := by
  refine ⟨hasEncoding_of_mem (r := opcodeTable[3]) (List.getElem_mem _), fun tt bc dir node obj s => ?_⟩
  exact ⟨_, rfl, rfl, fun k h => Vector.getElem_replicate h, rfl, rfl, rfl⟩

/-- Settles O23: the two branches of `TxPayload.push`. -/
theorem encPushAppendsOrOverflows : Obligations.EncPushAppendsOrOverflows := by
  refine ⟨hasEncoding_of_mem (r := opcodeTable[4]) (List.getElem_mem _), fun b s => ?_⟩
  refine ⟨_, rfl, rfl, fun hlt => ?_, fun hle => ?_⟩
  · have hpush : s.txPay.push b = _ := if_pos hlt
    rw [State.setTxPay_txPay, hpush]
    refine ⟨?_, rfl, fun k h => ?_⟩
    · rw [BitVec.toNat_add]; change (_ + 1) % 32 = _; omega
    · rw [Vector.getElem_setIfInBounds h]; simp only [eq_comm]
  · exact if_neg (Nat.not_lt.mpr hle)

/-! ### DEC_CLR, DEC_PUSH, DEC_END (rules R76 to R79) -/

/-- Settles O28: the stream is emptied to `RxStream.empty`. -/
theorem decClrDiscardsTheStream : Obligations.DecClrDiscardsTheStream := by
  refine ⟨hasEncoding_of_mem (r := opcodeTable[6]) (List.getElem_mem _), fun s => ?_⟩
  exact ⟨_, rfl, rfl, rfl, rfl, rfl, rfl, fun k h => Vector.getElem_replicate h⟩

/-- Settles O29: past the twenty-first byte RX_N is no index of RX_RAW, so nothing is captured. -/
theorem decPushReceivesOneByte : Obligations.DecPushReceivesOneByte := by
  refine ⟨hasEncoding_of_mem (r := opcodeTable[7]) (List.getElem_mem _), fun b s => ?_⟩
  refine ⟨_, rfl, rfl, ?_, ?_, rfl, rfl, ?_⟩
  · simp only [State.setRx_rx, RxStream.push, BitVec.toNat_ofNat, Config.rxCountMax]
    omega
  · simp only [State.setRx_rx, RxStream.push]
    split
    · rw [BitVec.toNat_add, BitVec.toNat_setWidth]; omega
    · rfl
  · intro k h
    simp only [State.setRx_rx, RxStream.push, Config.maxTelegram]
    by_cases hn : s.rx.n.toNat < 21
    · simp only [if_pos hn, Vector.getElem_setIfInBounds h, eq_comm]
    · have hk : k ≠ s.rx.n.toNat := by omega
      simp only [if_neg hn, if_neg hk]

section Verdict
variable (r : RxStream)

/-! DEC_END's verdict, case by case in the rule's order (rule R79). -/

theorem RxStream.verdict_of_lt (h : r.n.toNat < 2) : r.verdict = .lengthMismatch := if_pos h

theorem RxStream.verdict_of_sum_ne (h2 : 2 ≤ r.n.toNat) (hsum : ¬ r.sum.toNat = r.w1.toNat * 256 + r.w0.toNat) :
    r.verdict = .checksumMismatch := by
  rw [RxStream.verdict, if_neg (Nat.not_lt.mpr h2), if_pos]
  rwa [ne_eq, ← BitVec.toNat_inj, toNat_pairValue]

theorem RxStream.verdict_of_sum_eq (h2 : 2 ≤ r.n.toNat) (hsum : r.sum.toNat = r.w1.toNat * 256 + r.w0.toNat) :
    r.verdict = if r.plen = (byteAt r.raw 0).toNat % 16 + 1 then .ok else .lengthMismatch := by
  rw [RxStream.verdict, if_neg (Nat.not_lt.mpr h2), if_neg, declaredLength_eq]
  rwa [not_not, ← BitVec.toNat_inj, toNat_pairValue]

end Verdict

/-- A part of a buffer, 0 beyond it. -/
theorem getD_take_drop_toList {n : Nat} (v : Vector Byte n) (start len k : Nat) :
    ((v.toList.drop start).take len).getD k 0 = if k < len then byteAt v (start + k) else 0 := by
  rw [List.getD_eq_getElem?_getD, List.getElem?_take]
  split
  · rw [List.getElem?_drop, byteAt]; simp
  · rfl

/-- DEC_END writes the results and DEC_STAT, by its verdict, and empties the stream (rule R79). -/
theorem exec_decEnd (s : State) : ∃ t, exec .decEnd s = .next t ∧
    t = { s with rx := t.rx, rxOut := t.rxOut, status := { s.status with dec := t.status.dec } } ∧
    t.rx = RxStream.empty ∧ t.status.dec = s.rx.verdict ∧
    t.rxOut = if s.rx.verdict = .ok then s.rx.result else s.rxOut :=
  ⟨_, rfl, rfl, rfl, rfl, rfl⟩

/-- Settles O31: `exec_decEnd` and the cases of the verdict; an accepted length is the one declared, at most 16. -/
theorem decEndJudgesTheStream : Obligations.DecEndJudgesTheStream := by
  refine ⟨hasEncoding_of_mem (r := opcodeTable[8]) (List.getElem_mem _), fun s => ?_⟩
  obtain ⟨t, ht, hframe, hrx, hdec, hout⟩ := exec_decEnd s
  refine ⟨t, ht, hframe, hrx, ?_⟩
  rw [hdec, hout]
  refine ⟨s.rx.verdict_of_lt, s.rx.verdict_of_sum_ne, fun h2 hsum hlen => ?_, fun h2 hsum hlen => ?_,
    fun hv => if_neg hv⟩
  · exact (s.rx.verdict_of_sum_eq h2 hsum).trans (if_neg hlen)
  · have hv : s.rx.verdict = .ok := (s.rx.verdict_of_sum_eq h2 hsum).trans (if_pos hlen)
    rw [if_pos hv]
    refine ⟨hv, rfl, rfl, rfl, ?_, fun k h => ?_⟩
    · exact ((toNat_plen_result hv).trans (declaredLength_eq _)).trans hlen.symm
    · exact (getElem_padTo 16 _ k h).trans (getD_take_drop_toList s.rx.raw 3 s.rx.plen k)

/-- Settles O30: the empty stream is the one of no byte pushed, and each push appends a byte (`issue_decPush`). -/
theorem streamHoldsThePushedBytes : Obligations.StreamHoldsThePushedBytes := by
  refine ⟨fun bs s hs => ?_, rfl, fun s => ⟨_, rfl, rfl⟩, fun s => ⟨_, rfl, rfl⟩⟩
  have hset : s = s.setRx RxStream.empty := by rw [← hs]; rfl
  refine ⟨s.setRx (streamOf bs), (congrArg (issue _) hset).trans (issue_decPush bs s), rfl, ?_, ?_, rfl, rfl, ?_⟩
  · exact toNat_n_streamOf bs
  · exact toNat_csum16 _
  · exact fun k h => getElem_padTo 21 bs k h

end Sys2Proof.Machine

/-! PROOFS of the statements about the checksum unit (42_checksum.md): what follows from the checksum being a sum (rule R86),
each command (rules R87 to R89), and the sequences CHECKSUM and VERIFY, the latter against the decoder (rules R68, R90). -/

namespace Sys2Proof.Machine

/-! ### The checksum as a sum (rules R85, R86) -/

/-- Two sequences of one sum have one checksum. -/
theorem csum16_congr {a b : List Byte} (h : (a.map BitVec.toNat).sum = (b.map BitVec.toNat).sum) :
    csum16 a = csum16 b := congrArg (BitVec.ofNat 16) h

theorem csum16_append (a b : List Byte) : csum16 (a ++ b) = csum16 a + csum16 b := by
  rw [csum16, List.map_append, List.sum_append, BitVec.ofNat_add]
  rfl

theorem csum16_replicate (n : Nat) (b : Byte) : csum16 (List.replicate n b) = .ofNat 16 (n * b.toNat) := by
  rw [csum16, List.map_replicate, List.sum_replicate, smul_eq_mul]

/-- Settles O18: each clause but the first is an equation of sums (`csum16_congr`, `csum16_replicate`). -/
theorem checksumDependsOnTheSumAlone : Obligations.ChecksumDependsOnTheSumAlone := by
  refine ⟨fun a b => ?_, fun a b hperm => ?_, fun a b c d e f htrade => ?_, fun a b => ?_, ?_, ?_⟩
  · rw [csum16_append, BitVec.toNat_add]
  · exact csum16_congr (hperm.map _).sum_eq
  · apply csum16_congr
    simp only [List.map_append, List.map_cons, List.map_nil, List.sum_append, List.sum_cons, List.sum_nil]
    omega
  · apply csum16_congr
    simp
  · exact csum16_replicate 257 0xFF
  · exact csum16_replicate 258 0xFF

/-! ### The sequences CHECKSUM and VERIFY (rules R68, R90) -/

/-- Adding bytes to a cleared checksum (rules R87, R88). -/
theorem issue_csAdd (bs : List Byte) (s : State) :
    issue (bs.map .csAdd) (s.setCsum 0) = .next (s.setCsum (csum16 bs)) := by
  rw [← csum16_nil]
  exact issue_map (f := .csAdd) (state := fun as => s.setCsum (csum16 as))
    (fun as b => congrArg (fun c => Host.Outcome.next (s.setCsum c)) (csum16_concat as b).symm) bs []

/-- CHECKSUM leaves CSUM at the checksum of its bytes and CS_MATCH at 0 (rules R21, R90). -/
theorem issue_checksum (c : List Byte) (s : State) : (Pseudo.checksum c).issue s =
    .next ((s.setStatus (s.status.setCsMatch false)).setCsum (csum16 c)) :=
  (issue_cons rfl _).trans (issue_csAdd c (s.setStatus (s.status.setCsMatch false)))

/-- VERIFY is CS_CHK on what CHECKSUM leaves (rule R68). -/
theorem issue_verify (c : List Byte) (hi lo : Byte) (s : State) : (Pseudo.verify c hi lo).issue s =
    exec (.csChk hi lo) ((s.setStatus (s.status.setCsMatch false)).setCsum (csum16 c)) :=
  (issue_append (issue_checksum c s) [.csChk hi lo]).trans (issue_singleton _ _)

theorem checksumMatches_iff {c : Half} {hi lo : Byte} : checksumMatches c hi lo = true ↔ c = pairValue hi lo :=
  beq_iff_eq

/-- Decode reports a mismatch exactly when the trailer is not the checksum of the bytes before it (rule R75). -/
theorem stat_append_pair_eq_checksumMismatch_iff (body : List Byte) (hi lo : Byte) :
    (decodeTelegram (body ++ [hi, lo])).stat = .checksumMismatch ↔ csum16 body ≠ pairValue hi lo := by
  rw [decodeTelegram_append_pair]
  split_ifs with hsum hlen
  · exact iff_of_true rfl hsum
  · exact iff_of_false nofun hsum
  · exact iff_of_false nofun hsum

/-- Settles O19: `issue_checksum`, the checksum read as a number. -/
theorem checksumSequenceSumsTheBytes : Obligations.ChecksumSequenceSumsTheBytes :=
  fun c s => ⟨_, issue_checksum c s, toNat_csum16 c, rfl⟩

/-- Settles O20: both verdicts compare the checksum of the body with the trailer's value. -/
theorem verifyAgreesWithDecEnd : Obligations.VerifyAgreesWithDecEnd := by
  intro body hi lo s u
  obtain ⟨v, hv, hdec, -, -⟩ := issue_decode_cases (body ++ [hi, lo]) u
  refine ⟨_, v, issue_verify body hi lo s, hv, ?_⟩
  rw [hdec, ne_eq, stat_append_pair_eq_checksumMismatch_iff, ne_eq, not_not]
  exact checksumMatches_iff

/-! ### CS_CLR, CS_ADD, CS_CHK (rules R87 to R89) -/

/-- Settles O15: the next state is the two named updates. -/
theorem csClrClearsSumAndMatch : Obligations.CsClrClearsSumAndMatch :=
  ⟨hasEncoding_of_mem (r := opcodeTable[0]) (List.getElem_mem _), fun _ => rfl⟩

/-- Settles O16: the byte joins CSUM zero-extended, so its number is unchanged. -/
theorem csAddAddsModulo65536 : Obligations.CsAddAddsModulo65536 := by
  refine ⟨hasEncoding_of_mem (r := opcodeTable[1]) (List.getElem_mem _), fun b s => ⟨_, rfl, ?_, rfl⟩⟩
  rw [State.setCsum_csum, BitVec.toNat_add, byteValue, BitVec.toNat_setWidth_of_le (by decide)]

/-- Settles O17: CS_MATCH compares CSUM with the byte pair's value, whose number has the high byte first. -/
theorem csChkComparesHighByteFirst : Obligations.CsChkComparesHighByteFirst := by
  refine ⟨hasEncoding_of_mem (r := opcodeTable[2]) (List.getElem_mem _), fun hi lo s => ⟨_, rfl, ?_, rfl⟩⟩
  rw [← toNat_pairValue, BitVec.toNat_inj]
  exact checksumMatches_iff

end Sys2Proof.Machine

/-! PROOFS of the statements about the quantizer (43_quantizer.md): rounding to a register (rule R92), each command (rules R93
to R98), and the bound on quantizing and converting back (rule R100). -/

namespace Sys2Proof.Machine

/-! ### Rounding to a register (rule R92) -/

/-- `q` is `25600 * v / n` rounded to nearest, an exact tie to even: twice the distance, times `n`, is at most `n`. -/
def RoundsTo (v n q : Nat) : Prop :=
  2 * n * q ≤ 51200 * v + n ∧ 51200 * v ≤ 2 * n * q + n ∧
    (2 * n * q = 51200 * v + n ∨ 51200 * v = 2 * n * q + n → q % 2 = 0)

/-- The remainder of the division, against half of `n`, decides between the quotient and its successor. -/
theorem roundsTo_of_toRegister {v n q : Nat} (hn : 0 < n) (hv : v ≤ n) (h : toRegister v n = some q) :
    RoundsTo v n q := by
  have hdiv : n * (25600 * v / n) + 25600 * v % n = 25600 * v := Nat.div_add_mod _ _
  have hrem : 25600 * v % n < n := Nat.mod_lt _ hn
  simp only [toRegister, if_neg (show ¬ (n = 0 ∨ n < v) by omega), Config.fullScale] at h
  simp only [RoundsTo, Nat.mul_assoc 2 n q]
  generalize 25600 * v / n = d at *
  generalize 25600 * v % n = r at *
  have hsucc : n * (d + 1) = n * d + n := Nat.mul_succ n d
  split_ifs at h <;> cases h <;> omega

/-- Of two neighbours both reached by the bound, each is a tie, and one is odd. -/
theorem RoundsTo.not_lt {v n p q : Nat} (hn : 0 < n) (hp : RoundsTo v n p) (hq : RoundsTo v n q) : ¬ p < q := by
  intro hlt
  obtain ⟨-, hlow, heven⟩ := hp
  obtain ⟨hhigh, -, heven'⟩ := hq
  rw [Nat.mul_assoc] at hlow heven hhigh heven'
  have hsucc : n * (p + 1) = n * p + n := Nat.mul_succ n p
  have hle : q ≤ p + 1 := Nat.le_of_mul_le_mul_left (by omega) hn
  obtain rfl : q = p + 1 := by omega
  omega

theorem RoundsTo.unique {v n p q : Nat} (hn : 0 < n) (hp : RoundsTo v n p) (hq : RoundsTo v n q) : p = q :=
  Nat.le_antisymm (Nat.not_lt.mp (hq.not_lt hn hp)) (Nat.not_lt.mp (hp.not_lt hn hq))

/-- A value in range has a register. -/
theorem exists_toRegister {v n : Nat} (hn : 0 < n) (hv : v ≤ n) : ∃ q, toRegister v n = some q :=
  Option.ne_none_iff_exists'.mp fun h => by have hout := (toRegister_eq_none v n).mp h; omega

theorem toRegister_eq_some_iff {v n q : Nat} : toRegister v n = some q ↔ 0 < n ∧ v ≤ n ∧ RoundsTo v n q := by
  constructor
  · intro h
    have hin : ¬ (n = 0 ∨ n < v) := fun hout => by rw [(toRegister_eq_none v n).mpr hout] at h; cases h
    have hn : 0 < n := by omega
    have hv : v ≤ n := by omega
    exact ⟨hn, hv, roundsTo_of_toRegister hn hv h⟩
  · rintro ⟨hn, hv, hq⟩
    obtain ⟨p, hp⟩ := exists_toRegister hn hv
    rw [hp, (roundsTo_of_toRegister hn hv hp).unique hn hq]

/-- Settles O36: `RoundsTo` holds of what to_register gives, and of one number only. -/
theorem toRegisterRoundsHalfToEven : Obligations.ToRegisterRoundsHalfToEven :=
  ⟨toRegister_eq_none, fun _ _ _ => le_fullScale_of_toRegister, fun _ _ _ => toRegister_eq_some_iff⟩

/-- The nominal itself is full scale (rule R95). -/
theorem toRegister_self {n : Nat} (hn : 0 < n) : toRegister n n = some 25600 :=
  toRegister_eq_some_iff.mpr ⟨hn, Nat.le_refl n, by unfold RoundsTo; omega⟩

/-! ### Q_TOREG (rule R95) -/

/-- A register fits QREG. -/
theorem toNat_qreg_of_toRegister {v n r : Nat} (h : toRegister v n = some r) : (BitVec.ofNat 16 r).toNat = r := by
  have hle := le_fullScale_of_toRegister h
  rw [BitVec.toNat_ofNat]
  omega

/-- Settles O38: the two outcomes of `execQToreg_cases`, each the one its premise calls for. -/
theorem toregQuantizesOrRangeError : Obligations.ToregQuantizesOrRangeError := by
  refine ⟨hasEncoding_of_mem (r := opcodeTable[11]) (List.getElem_mem _), fun s => ?_⟩
  rw [← BitVec.toNat_inj, ne_eq, ← BitVec.toNat_inj]
  obtain ⟨hout, hexec⟩ | ⟨r, hr, hexec⟩ := execQToreg_cases s
  · exact ⟨_, hexec, fun _ => rfl, fun hn hv => absurd hout (not_or.mpr ⟨hn, Nat.not_lt.mpr hv⟩)⟩
  · obtain ⟨hn, hv, -⟩ := toRegister_eq_some_iff.mp hr
    have hfit := toNat_qreg_of_toRegister hr
    refine ⟨_, hexec, fun hout => absurd hout (not_or.mpr ⟨hn.ne', Nat.not_lt.mpr hv⟩), fun _ _ => ⟨rfl, ?_, ?_⟩⟩
    · exact hr.trans (congrArg some hfit.symm)
    · exact hfit.trans_le (le_fullScale_of_toRegister hr)

/-! ### Q_FROM16 and Q_FROM8 (rules R96 to R98) -/

/-- QP_INT and QP_FRAC hold the physical value exactly: 24 bits times 16 bits over 25600 fits 32 bits. -/
theorem physical_spec (q : Quantizer) (r : Half) :
    25600 * (q.physical r).qpInt.toNat + (q.physical r).qpFrac.toNat = q.qn.toNat * r.toNat ∧
      (q.physical r).qpFrac.toNat < 25600 ∧ (q.physical r).qpInt.toNat ≤ 42949015 := by
  obtain ⟨hexact, hlt⟩ := fromRegister_spec q.qn.toNat r.toNat
  have hmul : q.qn.toNat * r.toNat ≤ 16777215 * 65535 := Nat.mul_le_mul (by omega) (by omega)
  simp only [Quantizer.physical, Quantizer.setQp_qpInt, Quantizer.setQp_qpFrac, BitVec.toNat_ofNat]
  omega

/-- Settles O39: `physical_spec` at the byte pair's value; Q_FROM8 takes the low byte as 0. -/
theorem fromRegisterIsExact : Obligations.FromRegisterIsExact := by
  refine ⟨hasEncoding_of_mem (r := opcodeTable[12]) (List.getElem_mem _),
    hasEncoding_of_mem (r := opcodeTable[13]) (List.getElem_mem _), fun hi lo s => ?_, fun hi s => ?_⟩
  · refine ⟨_, rfl, rfl, ?_⟩
    rw [← toNat_pairValue]
    exact physical_spec s.quant _
  · have hval : (pairValue hi 0).toNat = hi.toNat * 256 := (toNat_pairValue hi 0).trans (Nat.add_zero _)
    refine ⟨_, rfl, rfl, ?_⟩
    rw [← hval]
    exact physical_spec s.quant _

/-! ### The round trip (rule R100) -/

/-- TOREG is Q_TOREG with QV and QN loaded (rule R68). -/
theorem issue_toreg (v n : BitVec 24) (s : State) :
    (Pseudo.toreg v n).issue s = exec .qToreg (s.setQuant ((s.quant.setQv v).setQn n)) :=
  ((issue_cons rfl _).trans (issue_cons rfl _)).trans (issue_singleton _ _)

/-- Q_FROM16 of QREG's two bytes converts QREG. -/
theorem exec_qFrom16_qreg (s : State) :
    exec (.qFrom16 (s.quant.qreg.extractLsb' 8 8) (s.quant.qreg.extractLsb' 0 8)) s =
      .next ((s.setQuant (s.quant.physical s.quant.qreg)).setStatus (s.status.setQ .ok)) := by
  rw [exec, execQFrom16, pairValue_trailer]

/-- Settles O40: what comes back is exactly `N` times the register, and the register is the rounded quotient. -/
theorem quantizerRoundTripBound : Obligations.QuantizerRoundTripBound := by
  intro v n s hn hv
  obtain ⟨hout, -⟩ | ⟨r, hr, hexec⟩ := execQToreg_cases (s.setQuant ((s.quant.setQv v).setQn n))
  · exact absurd hout (not_or.mpr ⟨Nat.ne_of_gt hn, Nat.not_lt.mpr hv⟩)
  simp only [State.setQuant_quant, Quantizer.setQn_qv, Quantizer.setQv_qv, Quantizer.setQn_qn] at hr
  have hfit := toNat_qreg_of_toRegister hr
  refine ⟨_, _, (issue_toreg v n s).trans hexec, rfl, exec_qFrom16_qreg _, rfl, ?_, ?_⟩
  · obtain ⟨hexact, -, -⟩ := physical_spec (((s.quant.setQv v).setQn n).setQreg (.ofNat 16 r)) (.ofNat 16 r)
    obtain ⟨-, -, hhigh, hlow, -⟩ := toRegister_eq_some_iff.mp hr
    rw [hfit, Quantizer.setQreg_qn, Quantizer.setQn_qn] at hexact
    rw [Nat.mul_assoc, ← hexact] at hhigh hlow
    simp only [State.setStatus_quant, State.setQuant_quant, Quantizer.setQreg_qreg]
    rw [abs_le]
    omega
  · rintro rfl
    rw [toRegister_self hn, Option.some.injEq] at hr
    exact hfit.trans hr.symm

/-! ### Q_LDV and Q_LDN (rules R93, R94) -/

/-- Settles O37: the next state is the one named update. -/
theorem loadCommandsSetTheOperands : Obligations.LoadCommandsSetTheOperands :=
  ⟨hasEncoding_of_mem (r := opcodeTable[9]) (List.getElem_mem _),
    hasEncoding_of_mem (r := opcodeTable[10]) (List.getElem_mem _), fun _ _ => ⟨rfl, rfl⟩⟩

end Sys2Proof.Machine

/-! PROOFS of the statements about STATUS (44_status.md): ST_CLR (rule R103), illegal words and the sticky ILL (rule R104). -/

namespace Sys2Proof.Machine

/-! ### ST_CLR (rule R103) -/

/-- Address 0x00 is STATUS (rule R45). -/
theorem hostRead_zero (s : State) : hostRead s 0x00 = byteWord s.status.toByte := rfl

/-- Settles O41: the next state is the one named update, to a STATUS that reads 0. -/
theorem stClrClearsStatusOnly : Obligations.StClrClearsStatusOnly := by
  refine ⟨hasEncoding_of_mem (r := opcodeTable[14]) (List.getElem_mem _), fun s => ⟨_, rfl, rfl, rfl, ?_⟩⟩
  rw [hostRead_zero, State.setStatus_status]
  decide

/-! ### Illegal words and ILL (rule R104) -/

/-- The decoder and the opcode map reject the same words. -/
theorem decodeByTable_eq_none_iff {w : Word} : decodeByTable w = none ↔ ∃ e, decode w = .error e := by
  cases hd : decode w with
  | ok i =>
    rw [decodeByTable_eq_some_iff.mpr (decode_eq_ok_iff.mp hd)]
    exact iff_of_false nofun nofun
  | error e =>
    refine iff_of_true (Option.eq_none_iff_forall_ne_some.mpr fun i hi => ?_) ⟨e, rfl⟩
    rw [decode_eq_ok_iff.mpr (decodeByTable_eq_some_iff.mp hi)] at hd
    cases hd

/-- No command but ST_CLR writes ILL. -/
theorem exec_ill {i : Instr} {s t : State} (hclr : i ≠ .stClr) (h : exec i s = .next t) :
    t.status.ill = s.status.ill := by
  obtain ⟨hstatus, -⟩ := exec_setStatus h s.status
  rw [hstatus]
  cases i with
  | stClr => exact absurd rfl hclr
  | _ => rfl

/-- ILL stays 1 until the ST_CLR word or reset. -/
theorem performAction_ill {a : HostAction} {s t : State} (h : performAction a s = .next t) (hill : s.status.ill = true) :
    t.status.ill = true ∨ a = .command 0xF0000000 ∨ a = .reset := by
  rcases performAction_cases h with ⟨w, i, rfl, hw, he⟩ | ⟨w, e, -, -, rfl⟩ | ⟨adr, -, rfl⟩ | ⟨rfl, -⟩
  · by_cases hi : i = .stClr
    · rw [hi] at hw
      exact .inr (.inl (congrArg HostAction.command (eq_of_decode_eq_stClr hw)))
    · exact .inl ((exec_ill hi he).trans hill)
  · exact .inl rfl
  · exact .inl hill
  · exact .inr (.inr rfl)

/-- Settles O42: a word outside the map has the one effect of `acceptWord_of_error`, and `performAction_ill` keeps ILL. -/
theorem illegalWordSetsStickyIll : Obligations.IllegalWordSetsStickyIll := by
  refine ⟨fun w s hw => ?_, fun _ _ _ => performAction_ill, fun s => ?_, fun s => ⟨_, rfl, rfl⟩, ?_, ?_⟩
  · obtain ⟨e, he⟩ := decodeByTable_eq_none_iff.mp hw
    exact acceptWord_of_error he s
  · exact ⟨_, performAction_encode .stClr s, rfl⟩
  · simp only [List.forall_mem_cons, decodeByTable_eq_none_iff]
    exact ⟨⟨.reservedOpcode, rfl⟩, ⟨.reservedBits, rfl⟩, ⟨.reservedBits, rfl⟩, ⟨.reservedOpcode, rfl⟩, nofun⟩
  · exact ⟨_, acceptWord_of_error (e := .reservedOpcode) rfl State.reset, by rw [hostRead_zero]; decide⟩

end Sys2Proof.Machine

/-! PROOFS of the statements about errors and observation (60_exceptions.md): a telegram to resend survives all but ENC_END
and reset (rule R108), a truncated one is never accepted (rule R109), the read port shows every element (rule R120), and
the block waits between actions (rule R121). -/

namespace Sys2Proof.Machine

/-! ### Truncated telegrams (rule R109) -/

/-- What Decode accepts is as long as its first byte declares, and five bytes more (rule R75). -/
theorem length_of_stat_eq_ok {raw : List Byte} (h : (decodeTelegram raw).stat = .ok) :
    raw.length = declaredLength (raw.getD 0 0) + 5 := by
  cases hdec : decodeTelegram raw with
  | checksumMismatch => rw [hdec] at h; cases h
  | lengthMismatch => rw [hdec] at h; cases h
  | ok d node obj p =>
    obtain ⟨rfl, hd⟩ := decodeTelegram_eq_ok_iff.mp hdec
    rw [length_sealTelegram, getD_sealTelegram (by simp), List.getD_cons_zero, hd]
    rfl

/-- Of two sequences with the same first byte but different lengths Decode accepts at most one, so it
accepts no truncation of what it accepts. -/
theorem stat_take_ne_ok {tel : List Byte} (h : (decodeTelegram tel).stat = .ok) {m : Nat} (hm : m < tel.length) :
    (decodeTelegram (tel.take m)).stat ≠ .ok := by
  intro htake
  have hlen := length_of_stat_eq_ok h
  have hlen' := length_of_stat_eq_ok htake
  rw [List.length_take_of_le hm.le] at hlen'
  have hfirst : (tel.take m).getD 0 0 = tel.getD 0 0 := by
    rw [List.getD_eq_getElem?_getD, List.getElem?_take_of_lt (by omega), ← List.getD_eq_getElem?_getD]
  rw [hfirst] at hlen'
  omega

/-- Decode accepts what Encode gives (rule R81). -/
theorem stat_of_encodeTelegram {tt : BitVec 2} {bc dir : BitVec 1} {node obj : Byte} {p tel : List Byte}
    (h : encodeTelegram tt bc dir node obj p = some tel) : (decodeTelegram tel).stat = .ok := by
  obtain ⟨⟨h1, h16⟩, rfl⟩ := encodeTelegram_eq_some_iff.mp h
  rw [decodeTelegram_sealTelegram (declaredLength_delim tt bc dir h1 h16)]
  rfl

/-- Settles O35: Decode accepts the whole telegram, hence no truncation of it, and DECODE leaves what Decode returns. -/
theorem truncatedTelegramIsNeverAccepted : Obligations.TruncatedTelegramIsNeverAccepted := by
  intro tt bc dir node obj p tel m s htel hm
  have hne := stat_take_ne_ok (stat_of_encodeTelegram htel) hm
  obtain ⟨u, hu, hstat, -, hkept⟩ := issue_decode_cases (tel.take m) s
  exact ⟨u, hu, hstat.symm ▸ hne, hkept hne⟩

/-! ### The telegram to resend (rules R108, R128) -/

/-- What each action of a sequence keeps holds at its end, and the sequence completes. -/
theorem performAll_keeps_of_mem {P : State → Prop} {acts : List HostAction}
    (hP : ∀ a ∈ acts, ∀ s t : State, P s → performAction a s = .next t → P t) (s : State) (hs : P s) :
    ∃ t, performAll acts s = .next t ∧ P t := by
  induction acts generalizing s with
  | nil => exact ⟨s, rfl, hs⟩
  | cons a rest ih =>
    rw [List.forall_mem_cons] at hP
    obtain ⟨hPa, hPrest⟩ := hP
    obtain ⟨u, hu⟩ := performAction_next a s
    rw [performAll_cons_of_next hu]
    exact ih hPrest u (hPa s u hs hu)

/-- TX_BUF and TX_LEN are written by ENC_END and reset only (rule R24). -/
theorem performAction_txOut {a : HostAction} {s t : State} (hreset : a ≠ .reset)
    (hend : ∀ w, a = .command w → decode w ≠ .ok .encEnd) (h : performAction a s = .next t) : t.txOut = s.txOut := by
  rcases performAction_cases h with ⟨w, i, ha, hw, he⟩ | ⟨w, e, -, -, rfl⟩ | ⟨adr, -, rfl⟩ | ⟨ha, -⟩
  · exact exec_txOut (fun hi => hend w ha (hi ▸ hw)) he
  · rfl
  · rfl
  · exact absurd ha hreset

/-- Settles O27: each action keeps TX_BUF and TX_LEN (`performAction_txOut`), hence the sequence does. -/
theorem telegramSurvivesEverythingButEncEnd : Obligations.TelegramSurvivesEverythingButEncEnd := by
  intro acts s hacts
  refine performAll_keeps_of_mem (P := fun t => t.txOut = s.txOut) (fun a ha u t hu ht => ?_) s rfl
  obtain ⟨hreset, hend⟩ := hacts a ha
  exact (performAction_txOut hreset hend ht).trans hu

/-! ### What the read port shows (rules R44, R45, R120) -/

/-- The elements a register word shows (rules R45, R46); the buffers have locations of their own. -/
def registerElems : Nat → List Elem
  | 0x00 => [.encStat, .decStat, .qStat, .csMatch, .ill]
  | 0x01 => [.csum]
  | 0x02 => [.txCnt, .txOvf, .txLen]
  | 0x03 => [.txObj, .txNode, .txDir, .txBc, .txTt]
  | 0x04 => [.rxW0, .rxW1, .rxN]
  | 0x05 => [.rxSum]
  | 0x06 => [.rxObj, .rxNode, .rxDelim, .rxPlen]
  | 0x07 => [.qv]
  | 0x08 => [.qn]
  | 0x09 => [.qreg]
  | 0x0A => [.qpInt]
  | 0x0B => [.qpFrac]
  | 0x0C => [.rxDelim]
  | _ => []

/-- Every element but the four buffers has a place in a register word (rule R120). -/
theorem mem_registerElems_or_buffer (e : Elem) :
    (∃ k < 0x0D, e ∈ registerElems k) ∨ e ∈ [Elem.txBuf, .txPay, .rxRaw, .rxPay] := by
  cases e <;> decide

section Alike
variable {s t : State}

/-! Words are equal exactly when the numbers of their fields are: no field of a word reaches the next. -/

theorem byteWord_inj {b c : Byte} : byteWord b = byteWord c ↔ b = c := by
  rw [← BitVec.toNat_inj, toNat_byteWord, toNat_byteWord, BitVec.toNat_inj]

theorem setWidth_eq_iff {n : Nat} (h : n ≤ 32) {x y : BitVec n} :
    x.setWidth 32 = y.setWidth 32 ↔ x.toNat = y.toNat := by
  rw [← BitVec.toNat_inj, BitVec.toNat_setWidth_of_le h, BitVec.toNat_setWidth_of_le h]

theorem byteWord_toByte_eq_iff {v w : Status} : byteWord v.toByte = byteWord w.toByte ↔
    v.enc.code.toNat = w.enc.code.toNat ∧ v.dec.code.toNat = w.dec.code.toNat ∧ v.q.code.toNat = w.q.code.toNat ∧
      v.csMatch.toNat = w.csMatch.toNat ∧ v.ill.toNat = w.ill.toNat := by
  have hv := v.csMatch.toNat_lt
  have hw := w.csMatch.toNat_lt
  rw [byteWord_inj, ← BitVec.toNat_inj, toNat_toByte, toNat_toByte]
  omega

theorem txCtl_eq_iff : s.txCtl = t.txCtl ↔ s.txPay.cnt.toNat = t.txPay.cnt.toNat ∧
    s.txPay.ovf.toNat = t.txPay.ovf.toNat ∧ s.txOut.len.toNat = t.txOut.len.toNat := by
  have hs := s.txPay.ovf.toNat_lt
  have ht := t.txPay.ovf.toNat_lt
  rw [← BitVec.toNat_inj, toNat_txCtl, toNat_txCtl]
  omega

theorem txHdrWord_eq_iff : s.txHdrWord = t.txHdrWord ↔ s.txHdr.obj.toNat = t.txHdr.obj.toNat ∧
    s.txHdr.node.toNat = t.txHdr.node.toNat ∧ s.txHdr.dir.toNat = t.txHdr.dir.toNat ∧
      s.txHdr.bc.toNat = t.txHdr.bc.toNat ∧ s.txHdr.tt.toNat = t.txHdr.tt.toNat := by
  rw [← BitVec.toNat_inj, toNat_txHdrWord, toNat_txHdrWord]
  omega

theorem rxStreamWord_eq_iff : s.rxStreamWord = t.rxStreamWord ↔
    s.rx.w0.toNat = t.rx.w0.toNat ∧ s.rx.w1.toNat = t.rx.w1.toNat ∧ s.rx.n.toNat = t.rx.n.toNat := by
  rw [← BitVec.toNat_inj, toNat_rxStreamWord, toNat_rxStreamWord]
  omega

theorem rxHdrWord_eq_iff : s.rxHdrWord = t.rxHdrWord ↔ s.rxOut.obj.toNat = t.rxOut.obj.toNat ∧
    s.rxOut.node.toNat = t.rxOut.node.toNat ∧ s.rxOut.delim.toNat = t.rxOut.delim.toNat ∧
      s.rxOut.plen.toNat = t.rxOut.plen.toNat := by
  rw [← BitVec.toNat_inj, toNat_rxHdrWord, toNat_rxHdrWord]
  omega

/-- The four fields of RX_FIELDS are all of RX_DELIM's bits (rule R46). -/
theorem rxFields_eq_iff : s.rxFields = t.rxFields ↔ s.rxOut.delim.toNat = t.rxOut.delim.toNat := by
  rw [← BitVec.toNat_inj, toNat_rxFields, toNat_rxFields]
  omega

/-- A register reads alike exactly when the elements it shows are alike. -/
theorem register_alike_iff {k : Nat} (hk : k < 0x0D) : hostRead s (.ofNat 8 k) = hostRead t (.ofNat 8 k) ↔
    ∀ e ∈ registerElems k, e.value s = e.value t := by
  interval_cases k <;> simp only [registerElems, List.forall_mem_cons, List.not_mem_nil, false_imp_iff, implies_true,
    and_true, Elem.value, List.singleton_inj]
  · exact byteWord_toByte_eq_iff
  · exact setWidth_eq_iff (by decide)
  · exact txCtl_eq_iff
  · exact txHdrWord_eq_iff
  · exact rxStreamWord_eq_iff
  · exact setWidth_eq_iff (by decide)
  · exact rxHdrWord_eq_iff
  · exact setWidth_eq_iff (by decide)
  · exact setWidth_eq_iff (by decide)
  · exact setWidth_eq_iff (by decide)
  · exact BitVec.toNat_inj.symm
  · exact setWidth_eq_iff (by decide)
  · exact rxFields_eq_iff

/-- A buffer's numbers are the buffer. -/
theorem map_toNat_toList_inj {n : Nat} {v w : Vector Byte n} :
    v.toList.map BitVec.toNat = w.toList.map BitVec.toNat ↔ v = w :=
  (List.map_injective_iff.mpr fun _ _ => BitVec.eq_of_toNat_eq).eq_iff.trans Vector.toList_inj

/-- A buffer whose entries are read one a location, from `base` up, is alike in states that read alike. -/
theorem buffer_eq_of_hostRead_eq {n base : Nat} {v w : Vector Byte n} (hlo : 0x0D ≤ base) (hhi : base + n ≤ 256)
    (hs : ∀ k (h : k < n), s.bufferWord (base + k) = byteWord v[k])
    (ht : ∀ k (h : k < n), t.bufferWord (base + k) = byteWord w[k])
    (hread : ∀ a : Addr, hostRead s a = hostRead t a) : v = w := by
  apply Vector.ext
  intro k hk
  have hword := hread (.ofNat 8 (base + k))
  rw [hostRead_ofNat s (by omega) (by omega), hostRead_ofNat t (by omega) (by omega), hs k hk, ht k hk] at hword
  exact byteWord_inj.mp hword

/-- Alike buffers read alike at every location (rules R45, R47). -/
theorem bufferWord_congr (hbuf : s.txOut.buf = t.txOut.buf) (htx : s.txPay.pay = t.txPay.pay)
    (hraw : s.rx.raw = t.rx.raw) (hrx : s.rxOut.pay = t.rxOut.pay) (n : Nat) : s.bufferWord n = t.bufferWord n := by
  rw [State.bufferWord, hbuf, htx, hraw, hrx, State.bufferWord]

theorem value_eq_of_hostRead_eq (h : ∀ a : Addr, hostRead s a = hostRead t a) (e : Elem) :
    e.value s = e.value t := by
  rcases mem_registerElems_or_buffer e with ⟨k, hk, he⟩ | he
  · exact (register_alike_iff hk).mp (h _) e he
  · simp only [List.mem_cons, List.not_mem_nil, or_false] at he
    rcases he with rfl | rfl | rfl | rfl <;> apply map_toNat_toList_inj.mpr
    · exact buffer_eq_of_hostRead_eq (by decide) (by decide) (fun _ => bufferWord_txBuf s)
        (fun _ => bufferWord_txBuf t) h
    · exact buffer_eq_of_hostRead_eq (by decide) (by decide) (fun _ => bufferWord_txPay s)
        (fun _ => bufferWord_txPay t) h
    · exact buffer_eq_of_hostRead_eq (by decide) (by decide) (fun _ => bufferWord_rxRaw s)
        (fun _ => bufferWord_rxRaw t) h
    · exact buffer_eq_of_hostRead_eq (by decide) (by decide) (fun _ => bufferWord_rxPay s)
        (fun _ => bufferWord_rxPay t) h

theorem hostRead_eq_of_value_eq (h : ∀ e : Elem, e.value s = e.value t) (a : Addr) : hostRead s a = hostRead t a := by
  by_cases ha : a.toNat < 0x0D
  · have hread := (register_alike_iff ha).mpr fun e _ => h e
    rwa [BitVec.ofNat_toNat, BitVec.setWidth_eq] at hread
  · rw [hostRead_of_le s (Nat.le_of_not_lt ha), hostRead_of_le t (Nat.le_of_not_lt ha)]
    exact bufferWord_congr (map_toNat_toList_inj.mp (h .txBuf)) (map_toNat_toList_inj.mp (h .txPay))
      (map_toNat_toList_inj.mp (h .rxRaw)) (map_toNat_toList_inj.mp (h .rxPay)) a.toNat

end Alike

/-- Settles O14: a register reads alike exactly when its elements are alike (`register_alike_iff`), and a buffer location
shows its one entry. -/
theorem readPortExposesEveryElement : Obligations.ReadPortExposesEveryElement :=
  fun _ _ => ⟨value_eq_of_hostRead_eq, hostRead_eq_of_value_eq⟩

/-! ### Waiting and reset (rules R121 to R123) -/

/-- With nothing pending the block waits (rule R121). -/
theorem step_of_port_eq_nil {s : State} (h : s.port = []) : step s = .next s := by
  rw [step, serveHost, h]

/-- Settles O10: the idle step, and the step that performs a pending reset. -/
theorem idleHoldsAndResetIsAStep : Obligations.IdleHoldsAndResetIsAStep :=
  ⟨fun _ => step_of_port_eq_nil, fun _ _ hp => step_of_port_eq_cons hp⟩

end Sys2Proof.Machine

/-! PROOFS of the statements about reset and hazards (70_reset_and_hazards.md): the four units do not disturb each other
(rule R127), and every host action and every step completes (rule R129). -/

namespace Sys2Proof.Machine

/-! ### The units (rule R127) -/

/-- The state `u` with the elements of the unit `part` taken from `s`. -/
def State.withUnit (part : Part) (s u : State) : State :=
  match part with
  | .checksum => (u.setCsum s.csum).setStatus (u.status.setCsMatch s.status.csMatch)
  | .encoder =>
    (((u.setTxHdr s.txHdr).setTxPay s.txPay).setTxOut s.txOut).setStatus (u.status.setEnc s.status.enc)
  | .decoder => ((u.setRx s.rx).setRxOut s.rxOut).setStatus (u.status.setDec s.status.dec)
  | .quantizer => (u.setQuant s.quant).setStatus (u.status.setQ s.status.q)
  | .status => u.setStatus (u.status.setIll s.status.ill)

/-- `withUnit` takes every element that the unit owns. -/
theorem value_withUnit (e : Elem) (s u : State) : e.value (s.withUnit e.part u) = e.value s := by
  cases e <;> rfl

theorem withUnit_self (part : Part) (s : State) : s.withUnit part s = s := by
  cases part <;> rfl

/-- Two units have no element in common: one is not seen in what is taken of the other. -/
theorem withUnit_withUnit_of_ne {p q : Part} (h : q ≠ p) (s t u : State) :
    (t.withUnit q s).withUnit p u = s.withUnit p u := by
  cases p <;> cases q <;> simp [State.withUnit] at h ⊢

/-- What a unit's command does to its unit depends on that unit alone, and the rest of the state stays, whatever it is. -/
theorem exec_withUnit {i : Instr} {s t : State} (hi : instrPart i ≠ .status) (h : exec i s = .next t) (u : State) :
    exec i (s.withUnit (instrPart i) u) = .next (t.withUnit (instrPart i) u) := by
  cases i with
  | stClr => exact absurd rfl hi
  | qToreg => rw [exec, execQToreg_eq] at h ⊢; cases h; rfl
  | _ => cases h; rfl

/-- A unit's command leaves the other units as they were. -/
theorem withUnit_of_exec {i : Instr} {s t : State} (hi : instrPart i ≠ .status) (h : exec i s = .next t) {part : Part}
    (hpart : instrPart i ≠ part) (u : State) : t.withUnit part u = s.withUnit part u := by
  have hrest := exec_withUnit hi h s
  rw [withUnit_self, h, Host.Outcome.next.injEq] at hrest
  rw [hrest]
  exact withUnit_withUnit_of_ne hpart s t u

/-- A sequence of the units' commands leaves in a unit what the unit's own commands alone leave there, whatever the other
units hold. -/
theorem issue_filter_withUnit {is : List Instr} (his : ∀ i ∈ is, instrPart i ≠ .status) (part : Part) (s u : State) :
    ∃ t, issue is s = .next t ∧
      issue (is.filter fun i => instrPart i == part) (s.withUnit part u) = .next (t.withUnit part u) := by
  induction is generalizing s with
  | nil => exact ⟨s, rfl, rfl⟩
  | cons i is ih =>
    obtain ⟨hi, hrest⟩ := List.forall_mem_cons.mp his
    obtain ⟨v, hv, -⟩ := exec_next i s
    rw [issue_cons hv]
    by_cases hpart : instrPart i = part
    · subst hpart
      rw [List.filter_cons_of_pos (by simp), issue_cons (exec_withUnit hi hv u)]
      exact ih hrest v
    · rw [List.filter_cons_of_neg (by simpa using hpart), ← withUnit_of_exec hi hv hpart u]
      exact ih hrest v

/-! ### The obligations of 70_reset_and_hazards.md -/

/-- Settles O11: an action completes (`performAction_next`), and a step is the idle one or performs an action. -/
theorem everyHostActionCompletes : Obligations.EveryHostActionCompletes := by
  refine ⟨performAction_next, fun w => performAction_next (.command w), fun s => ?_⟩
  cases hp : s.port with
  | nil => exact ⟨s, step_of_port_eq_nil hp⟩
  | cons a rest => exact step_of_port_eq_cons hp ▸ performAction_next a (s.setPort rest)

/-- Settles O46: after the unit's own commands alone the state is the old one, but for that unit, which is as after the
whole sequence. -/
theorem unitsDoNotDisturbEachOther : Obligations.UnitsDoNotDisturbEachOther := by
  intro is part s his _
  obtain ⟨t, ht, hown⟩ := issue_filter_withUnit his part s s
  rw [withUnit_self] at hown
  refine ⟨t, t.withUnit part s, ht, hown, fun e he => ?_⟩
  rw [← he, value_withUnit]

end Sys2Proof.Machine
